-- ==== Sys2Proof/Word.lean ====
section
/-! DEFINITION. The bit-string types of the machine (00_scope.md R8, R9). -/

namespace Sys2Proof

/-- One byte of memory or of an instruction (10_state.md R24). -/
abbrev Byte := BitVec 8

/-- A general register, a linear address or the pc at its full width (10_state.md R18, R19). -/
abbrev Word := BitVec 64

/-- A vector register of `MAXVL = 512` bits (10_state.md R14). -/
abbrev Vec := BitVec 512

/-- The number of a vector register: five bits name ZMM0 to ZMM31 (10_state.md R15). -/
abbrev VReg := BitVec 5

/-- The number of a general register: four bits name RAX to R15 (10_state.md R19). -/
abbrev GReg := BitVec 4

/-- The number of an opmask register: `EVEX.aaa` (10_state.md R17). -/
abbrev KReg := BitVec 3

end Sys2Proof
end

