-- ==== Sys2Proof/Config.lean ====
section
/-! DEFINITION. What is fixed for the machine (00_scope.md R7). What the spec leaves to the launch (MODE, the feature
flags, OS_ENABLED, TS, AlignCheckOn, FaultSuppression, MemReadable, SegBase) is plain data in State. -/

namespace Sys2Proof

/-- `MAXVL`, the width of a full vector register (00_scope.md R7; D1). -/
abbrev Config.maxvl : Nat := 512

/-- `KW`, the width an opmask register is held at. DESIGN CHOICE, log entry 5: the spec asks for any `KW >= 16`. -/
abbrev Config.kw : Nat := 64

/-- What a byte of memory that nothing has written reads as. DESIGN CHOICE, unsafe, log entry 1. -/
def Config.unlistedByte : Byte := 0

/-- The number of bytes of the longest instruction the decoder can read: fourteen (30_encoding.md R65), and one
forbidden prefix byte that R70 step 1 skips. -/
def Config.maxFetch : Nat := 15

end Sys2Proof
end

