-- ==== Sys2Proof/Syntax.lean ====
section
/-! DEFINITION. The instructions as data: one constructor of `Instr` for each row of spec/opcode_table.json
(30_encoding.md R63), with everything their encoding says that the machine or the length depends on. -/

namespace Sys2Proof

/-- The processor mode the stream is decoded in: `MODE` of 00_scope.md R7, with the modes that D2 and R108 name. -/
inductive Mode where
  | mode64        -- 64-bit code
  | mode32        -- 32-bit protected or compatibility-mode code
  | real          -- real-address mode: the encodings are #UD
  | virtual8086   -- virtual-8086 mode: the encodings are #UD
  | code16        -- a code segment with a 16-bit default size: refused (D2)
deriving DecidableEq, Repr

/-- The vector length `VL` (30_encoding.md R52). -/
inductive VL where
  | v128
  | v256
  | v512
deriving DecidableEq, Repr

/-- `VL` in bits. -/
def VL.bits : VL → Nat
  | .v128 => 128
  | .v256 => 256
  | .v512 => 512

/-- The element width chosen by `EVEX.W` (30_encoding.md R50). -/
inductive ElemSize where
  | dword   -- W0
  | qword   -- W1
deriving DecidableEq, Repr

/-- The element width `W` in bits. -/
def ElemSize.bits : ElemSize → Nat
  | .dword => 32
  | .qword => 64

/-- The segment registers (30_encoding.md R59, R66). -/
inductive Seg where
  | es
  | cs
  | ss
  | ds
  | fs
  | gs
deriving DecidableEq, Repr

/-- The legacy prefixes the model admits before the EVEX prefix, with their order (30_encoding.md R66; D28): at most
one segment override and at most one address-size override 0x67. -/
inductive Prefixes where
  | noPrefix
  | seg (g : Seg)
  | addr
  | segAddr (g : Seg)
  | addrSeg (g : Seg)
deriving DecidableEq, Repr

/-- The displacement bytes (30_encoding.md R53): absent, one byte (scaled by `N`, R60), or four bytes. -/
inductive Disp where
  | noDisp
  | d8 (v : BitVec 8)
  | d32 (v : BitVec 32)
deriving DecidableEq, Repr

/-- The address form of a memory operand (30_encoding.md R53, R57, R58). -/
inductive Addr where
  /-- `mod = 0, rm = 5`: next-instruction-relative in `Mode64`, absolute in `Mode32`. -/
  | disp32 (v : BitVec 32)
  /-- No SIB byte: a base register and a displacement. -/
  | base (b : GReg) (d : Disp)
  /-- A SIB byte: `base` absent means `mod = 0` with `SIB.base = 5`; `index` absent means `X = 0` with
  `SIB.index = 4`. -/
  | sib (base : Option GReg) (index : Option GReg) (scale : BitVec 2) (d : Disp)
deriving DecidableEq, Repr

/-- The `ModRM:r/m` operand: a vector register, or memory, full-width or (`EVEX.b = 1`) broadcast (30_encoding.md R61). -/
inductive RM where
  | reg (r : VReg)
  | mem (a : Addr) (bcast : Bool)
deriving DecidableEq, Repr

/-- The writemask and its kind (30_encoding.md R62). -/
inductive Masking where
  | unmasked              -- aaa = 000, z = 0
  | merging (k : KReg)    -- aaa = k, z = 0
  | zeroing (k : KReg)    -- aaa = k, z = 1
deriving DecidableEq, Repr

/-- The operands of an immediate form, Op/En A (30_encoding.md R55). -/
structure ImmForm where
  prefixes : Prefixes
  dest : VReg
  mask : Masking
  src : RM
  imm : BitVec 8
deriving DecidableEq, Repr

/-- The operands of a variable form, Op/En B (30_encoding.md R56). -/
structure VarForm where
  prefixes : Prefixes
  dest : VReg
  mask : Masking
  src : VReg
  count : RM
deriving DecidableEq, Repr

/-- The twelve encodings, in the order of 30_encoding.md R63. -/
inductive Instr where
  | vprolvd128 (o : VarForm)
  | vprold128 (o : ImmForm)
  | vprolvq128 (o : VarForm)
  | vprolq128 (o : ImmForm)
  | vprolvd256 (o : VarForm)
  | vprold256 (o : ImmForm)
  | vprolvq256 (o : VarForm)
  | vprolq256 (o : ImmForm)
  | vprolvd512 (o : VarForm)
  | vprold512 (o : ImmForm)
  | vprolvq512 (o : VarForm)
  | vprolq512 (o : ImmForm)
deriving DecidableEq, Repr

/-- Why the decoder refuses bytes (92_eei_decisions.md: a refusal claims nothing of the processor). All safe: the
model stops. -/
inductive DecodeRefusal where
  /-- The code segment has a 16-bit default size (00_scope.md R7; D2). -/
  | codeSize16
  /-- The bytes are not one of the twelve encodings (30_encoding.md R69; D30). -/
  | outOfScope
  /-- `P0[3:2]` or `P1[2]` is not the fixed value (30_encoding.md R67 U-a, U-b; D30). -/
  | reservedBits
  /-- Outside 64-bit mode, `P0[7:6]` is not 11: the BOUND instruction (30_encoding.md R68). -/
  | boundInstruction
  /-- A repeated override, or two segment overrides (30_encoding.md R66; D28). -/
  | prefixArrangement
  /-- 0x67 in `Mode32`: 16-bit addressing (30_encoding.md R58; D2). -/
  | addressing16
  /-- Form A with `R~` or `R'~` stored as 0 (30_encoding.md R55; D14). -/
  | unusedBitsFormA
  /-- `Mode32` with `B~`, `R'~`, `V'~` or `vvvv~[3]` stored as 0 (30_encoding.md R68; D21). -/
  | unusedBitsMode32
deriving DecidableEq, Repr

end Sys2Proof
end

