-- ==== Sys2Proof/WellFormed.lean ====
section
/-! DEFINITION. Which terms of `Instr` an encoding can spell, in each mode (30_encoding.md R53, R54, R62, R66, R68). -/

namespace Sys2Proof

/-- A writemask register is K1 to K7 (30_encoding.md R62: `aaa = 000` means no writemask). -/
def Masking.wf : Masking → Bool
  | .unmasked => true
  | .merging k => k != 0
  | .zeroing k => k != 0

/-- The low three bits of a general register number: what ModRM.rm or SIB.base holds. -/
def GReg.low (r : GReg) : BitVec 3 := r.setWidth 3

/-- `mod = 0` spells no displacement; a base whose low three bits are 5 then has no encoding (30_encoding.md R53). -/
def Disp.fitsBase (d : Disp) (b : GReg) : Bool := d != .noDisp || GReg.low b != 5

/-- The address forms that ModRM and SIB can spell (30_encoding.md R53, R57): `rm = 4` selects a SIB byte, an index
numbered 4 means no index, and an absent base comes with four displacement bytes. -/
def Addr.wf : Addr → Bool
  | .disp32 _ => true
  | .base b d => GReg.low b != 4 && d.fitsBase b
  | .sib ob oi _ d =>
    oi != some 4 &&
    match ob with
    | none => match d with
      | .d32 _ => true
      | _ => false
    | some b => d.fitsBase b

/-- The registers an operand can name in `Mode32` are below 8 (30_encoding.md R68; D19, D21). -/
def VReg.inMode : Mode → VReg → Bool
  | .mode64, _ => true
  | .mode32, r => r < 8
  | _, _ => false

/-- The general registers an address can name in `Mode32` are below 8 (10_state.md R19). -/
def GReg.inMode : Mode → GReg → Bool
  | .mode64, _ => true
  | .mode32, r => r < 8
  | _, _ => false

/-- An absent register is in every mode that has the encodings. -/
def GReg.optInMode (m : Mode) : Option GReg → Bool
  | none => true
  | some r => GReg.inMode m r

/-- The general registers of an address form are nameable in the mode. -/
def Addr.inMode (m : Mode) : Addr → Bool
  | .disp32 _ => true
  | .base b _ => GReg.inMode m b
  | .sib ob oi _ _ => GReg.optInMode m ob && GReg.optInMode m oi

/-- The `ModRM:r/m` operand is spellable in the mode. -/
def RM.wf (m : Mode) : RM → Bool
  | .reg r => VReg.inMode m r
  | .mem a _ => a.wf && a.inMode m

/-- 0x67 is admitted in `Mode64` only (30_encoding.md R66; D28). -/
def Prefixes.wf (m : Mode) : Prefixes → Bool
  | .noPrefix => true
  | .seg _ => true
  | .addr => m == .mode64
  | .segAddr _ => m == .mode64
  | .addrSeg _ => m == .mode64

/-- An immediate form that Op/En A can spell in the mode (30_encoding.md R55). -/
def ImmForm.wf (m : Mode) (o : ImmForm) : Bool :=
  o.prefixes.wf m && VReg.inMode m o.dest && o.mask.wf && o.src.wf m

/-- A variable form that Op/En B can spell in the mode (30_encoding.md R56). -/
def VarForm.wf (m : Mode) (o : VarForm) : Bool :=
  o.prefixes.wf m && VReg.inMode m o.dest && o.mask.wf && VReg.inMode m o.src && o.count.wf m

/-- The model has the twelve encodings in `Mode64` and `Mode32` (00_scope.md R3; D2). -/
def Mode.admitted : Mode → Bool
  | .mode64 => true
  | .mode32 => true
  | _ => false

/-- An instruction that an encoding can spell in the mode. -/
def Instr.wf (m : Mode) (i : Instr) : Bool :=
  m.admitted &&
  match i with
  | .vprolvd128 o => o.wf m
  | .vprold128 o => o.wf m
  | .vprolvq128 o => o.wf m
  | .vprolq128 o => o.wf m
  | .vprolvd256 o => o.wf m
  | .vprold256 o => o.wf m
  | .vprolvq256 o => o.wf m
  | .vprolq256 o => o.wf m
  | .vprolvd512 o => o.wf m
  | .vprold512 o => o.wf m
  | .vprolvq512 o => o.wf m
  | .vprolq512 o => o.wf m

end Sys2Proof
end

