-- ==== Sys2Proof/Decode.lean ====
section
/-! DEFINITION. The decoder (30_encoding.md R70), total on any bytes and refusing by name, and after it the encoder,
written from the same tables (30_encoding.md R48 to R66). -/

namespace Sys2Proof

/-! ## Legacy prefixes (30_encoding.md R66) -/

/-- The segment that an override byte names (30_encoding.md R66). -/
def segOverride (b : Byte) : Option Seg :=
  if b = 0x26 then some .es
  else if b = 0x2E then some .cs
  else if b = 0x36 then some .ss
  else if b = 0x3E then some .ds
  else if b = 0x64 then some .fs
  else if b = 0x65 then some .gs
  else none

/-- The override byte of a segment (30_encoding.md R66). -/
def Seg.byte : Seg → Byte
  | .es => 0x26
  | .cs => 0x2E
  | .ss => 0x36
  | .ds => 0x3E
  | .fs => 0x64
  | .gs => 0x65

/-- One more segment override after `p`: at most one is admitted (D28). -/
def Prefixes.addSeg (g : Seg) : Prefixes → Option Prefixes
  | .noPrefix => some (.seg g)
  | .addr => some (.addrSeg g)
  | _ => none

/-- One more 0x67 after `p`: at most one is admitted (D28). -/
def Prefixes.addAddr : Prefixes → Option Prefixes
  | .noPrefix => some .addr
  | .seg g => some (.segAddr g)
  | _ => none

/-- What reading the legacy prefixes ends in. -/
inductive PrefixScan where
  | found (p : Prefixes) (rest : List Byte)
  | truncated
  | refused (why : DecodeRefusal)
deriving DecidableEq, Repr

/-- Step 1 of R70: consume segment overrides and 0x67, refusing repeats (R66) and, in `Mode32`, 0x67 (R58). -/
def scanPrefixes (m : Mode) : Prefixes → List Byte → PrefixScan
  | _, [] => .truncated
  | p, b :: rest =>
    match segOverride b with
    | some g =>
      match p.addSeg g with
      | some p' => scanPrefixes m p' rest
      | none => .refused .prefixArrangement
    | none =>
      if b = 0x67 then
        if m = .mode32 then .refused .addressing16
        else
          match p.addAddr with
          | some p' => scanPrefixes m p' rest
          | none => .refused .prefixArrangement
      else .found p (b :: rest)

/-- A prefix that makes an EVEX encoding #UD: LOCK, 0x66, 0xF2, 0xF3, and in `Mode64` REX (30_encoding.md R66, U-g). -/
def forbiddenPrefix (m : Mode) (b : Byte) : Bool :=
  b == 0xF0 || b == 0x66 || b == 0xF2 || b == 0xF3 || (m == .mode64 && b.extractLsb' 4 4 == 0x4#4)

/-- Step 1 of R70, its last line: skip one forbidden prefix and remember it. -/
def skipForbidden (m : Mode) : List Byte → Bool × List Byte
  | [] => (false, [])
  | b :: rest => if forbiddenPrefix m b then (true, rest) else (false, b :: rest)

/-! ## Fields (30_encoding.md R49 to R53) -/

/-- `R = NOT P0[7]` (30_encoding.md R49). -/
def p0R (p0 : Byte) : BitVec 1 := ~~~ p0.extractLsb' 7 1

/-- `X = NOT P0[6]` (30_encoding.md R49). -/
def p0X (p0 : Byte) : BitVec 1 := ~~~ p0.extractLsb' 6 1

/-- `B = NOT P0[5]` (30_encoding.md R49). -/
def p0B (p0 : Byte) : BitVec 1 := ~~~ p0.extractLsb' 5 1

/-- `R' = NOT P0[4]` (30_encoding.md R49). -/
def p0R' (p0 : Byte) : BitVec 1 := ~~~ p0.extractLsb' 4 1

/-- `mm`, the opcode map (30_encoding.md R49). -/
def p0mm (p0 : Byte) : BitVec 2 := p0.extractLsb' 0 2

/-- `W` (30_encoding.md R50). -/
def p1W (p1 : Byte) : BitVec 1 := p1.extractLsb' 7 1

/-- `vvvv = NOT P1[6:3]` (30_encoding.md R50). -/
def p1vvvv (p1 : Byte) : BitVec 4 := ~~~ p1.extractLsb' 3 4

/-- `pp`, the implied prefix (30_encoding.md R50). -/
def p1pp (p1 : Byte) : BitVec 2 := p1.extractLsb' 0 2

/-- `z` (30_encoding.md R51). -/
def p2z (p2 : Byte) : BitVec 1 := p2.extractLsb' 7 1

/-- `L'L` (30_encoding.md R51). -/
def p2LL (p2 : Byte) : BitVec 2 := p2.extractLsb' 5 2

/-- `EVEX.b` (30_encoding.md R51). -/
def p2b (p2 : Byte) : BitVec 1 := p2.extractLsb' 4 1

/-- `V' = NOT P2[3]` (30_encoding.md R51). -/
def p2V' (p2 : Byte) : BitVec 1 := ~~~ p2.extractLsb' 3 1

/-- `aaa` (30_encoding.md R51). -/
def p2aaa (p2 : Byte) : BitVec 3 := p2.extractLsb' 0 3

/-- `ModRM.mod`, and `SIB.scale` in a SIB byte (30_encoding.md R53). -/
def fieldMod (b : Byte) : BitVec 2 := b.extractLsb' 6 2

/-- `ModRM.reg`, and `SIB.index` in a SIB byte (30_encoding.md R53). -/
def fieldReg (b : Byte) : BitVec 3 := b.extractLsb' 3 3

/-- `ModRM.rm`, and `SIB.base` in a SIB byte (30_encoding.md R53). -/
def fieldRm (b : Byte) : BitVec 3 := b.extractLsb' 0 3

/-- The register named by `ModRM:reg`: `R' * 16 + R * 8 + ModRM.reg` (30_encoding.md R54). -/
def regOperand (p0 modrm : Byte) : VReg := p0R' p0 ++ p0R p0 ++ fieldReg modrm

/-- The register named by `EVEX.vvvv`: `V' * 16 + vvvv` (30_encoding.md R54). -/
def vvvvOperand (p1 p2 : Byte) : VReg := p2V' p2 ++ p1vvvv p1

/-- `VL` from `L'L`; 11 selects no encoding (30_encoding.md R52). -/
def vlOf (ll : BitVec 2) : Option VL :=
  if ll = 0 then some .v128
  else if ll = 1 then some .v256
  else if ll = 2 then some .v512
  else none

/-- The masking of `z` and `aaa`; `z = 1` with `aaa = 000` is no form (30_encoding.md R62). -/
def maskingOf (z : BitVec 1) (aaa : BitVec 3) : Option Masking :=
  if aaa = 0 then (if z = 0 then some .unmasked else none)
  else if z = 0 then some (.merging aaa)
  else some (.zeroing aaa)

/-- The element width of `EVEX.W` (30_encoding.md R50). -/
def elemOf (w : BitVec 1) : ElemSize := if w = 0 then .dword else .qword

/-! ## SIB and displacement (30_encoding.md R53) -/

/-- A 4-byte displacement, least significant byte first (30_encoding.md R53). -/
def readDisp32 : List Byte → Option (BitVec 32 × List Byte)
  | b0 :: b1 :: b2 :: b3 :: rest => some (b3 ++ b2 ++ b1 ++ b0, rest)
  | _ => none

/-- The displacement after ModRM or SIB: `mod = 1` one byte, `mod = 2` four, and `mod = 0` none, or four where `wide`
says that the base field holds 5 (30_encoding.md R53). -/
def readDisp (mod : BitVec 2) (wide : Bool) (bs : List Byte) : Option (Disp × List Byte) :=
  if mod = 0 then
    if wide then (readDisp32 bs).map fun p => (.d32 p.1, p.2) else some (.noDisp, bs)
  else if mod = 1 then
    match bs with
    | b :: rest => some (.d8 b, rest)
    | [] => none
  else (readDisp32 bs).map fun p => (.d32 p.1, p.2)

/-- The address form of `mod != 3` (30_encoding.md R53, R57): a SIB byte exactly when `rm = 4`. -/
def readAddr (x b : BitVec 1) (mod : BitVec 2) (rm : BitVec 3) (bs : List Byte) : Option (Addr × List Byte) :=
  if rm = 4 then
    match bs with
    | [] => none
    | sib :: rest =>
      let noBase := mod == 0 && fieldRm sib == 5
      let ob : Option GReg := if noBase then none else some (b ++ fieldRm sib)
      let oi : Option GReg := if x = 0 ∧ fieldReg sib = 4 then none else some (x ++ fieldReg sib)
      (readDisp mod noBase rest).map fun p => (.sib ob oi (fieldMod sib) p.1, p.2)
  else if mod = 0 ∧ rm = 5 then (readDisp32 bs).map fun p => (.disp32 p.1, p.2)
  else (readDisp mod false bs).map fun p => (.base (b ++ rm) p.1, p.2)

/-- The `ModRM:r/m` operand: `X * 16 + B * 8 + ModRM.rm` with `mod = 3`, memory otherwise (30_encoding.md R54, R61). -/
def readRM (x b bc : BitVec 1) (modrm : Byte) (bs : List Byte) : Option (RM × List Byte) :=
  if fieldMod modrm = 3 then some (.reg (x ++ b ++ fieldRm modrm), bs)
  else (readAddr x b (fieldMod modrm) (fieldRm modrm) bs).map fun p => (.mem p.1 (bc == 1), p.2)

/-! ## Rows (30_encoding.md R63) -/

/-- The immediate-form row of an element width and a vector length (30_encoding.md R63, even rows). -/
def Instr.ofImm (e : ElemSize) (vl : VL) (o : ImmForm) : Instr :=
  match e, vl with
  | .dword, .v128 => .vprold128 o
  | .dword, .v256 => .vprold256 o
  | .dword, .v512 => .vprold512 o
  | .qword, .v128 => .vprolq128 o
  | .qword, .v256 => .vprolq256 o
  | .qword, .v512 => .vprolq512 o

/-- The variable-form row of an element width and a vector length (30_encoding.md R63, odd rows). -/
def Instr.ofVar (e : ElemSize) (vl : VL) (o : VarForm) : Instr :=
  match e, vl with
  | .dword, .v128 => .vprolvd128 o
  | .dword, .v256 => .vprolvd256 o
  | .dword, .v512 => .vprolvd512 o
  | .qword, .v128 => .vprolvq128 o
  | .qword, .v256 => .vprolvq256 o
  | .qword, .v512 => .vprolvq512 o

/-- The two operand encodings (30_encoding.md R55, R56). -/
inductive OpEn where
  | a
  | b
deriving DecidableEq, Repr

/-- Step 6 of R70: the operand encoding that (`mm`, `pp`, opcode, `ModRM.reg`) select, if they select a row. -/
def rowOf (mm pp : BitVec 2) (opcode : Byte) (reg : BitVec 3) : Option OpEn :=
  if mm = 2 ∧ pp = 1 ∧ opcode = 0x15 then some .b
  else if mm = 1 ∧ pp = 1 ∧ opcode = 0x72 ∧ reg = 1 then some .a
  else none

/-- What decoding ends in. -/
inductive DecodeResult where
  /-- An instruction whose encoding is one of the twelve. -/
  | ok (i : Instr)
  /-- #UD by the encoding alone, or by the mode (30_encoding.md R67 U-c, U-d, U-e, U-g, U-h). -/
  | invalidOpcode
  /-- Step 10 of R70, to be refused once the #UD conditions of step 9 at this vector length are ruled out. -/
  | unusedBits (vl : VL) (why : DecodeRefusal)
  /-- A byte the instruction needs is not there: it cannot be fetched (20_memory.md R46; 10_state.md R18). -/
  | truncated
  | refused (why : DecodeRefusal)
deriving DecidableEq, Repr

/-- Steps 7, 8 and 10 of R70 for a row of vector length field `ll`, masking field (`z`, `aaa`), once its bytes are
read: `bad` is U-g or the mode of U-h, `bRegister` is U-e, `unused` the refusal of step 10 that applies, `i` the instruction. -/
def judge (bad bRegister : Bool) (ll : BitVec 2) (z : BitVec 1) (aaa : BitVec 3) (unused : Option DecodeRefusal)
    (i : VL → Masking → Instr) : DecodeResult :=
  match vlOf ll, maskingOf z aaa with
  | some vl, some k =>
    if bad || bRegister then .invalidOpcode
    else
      match unused with
      | some why => .unusedBits vl why
      | none => .ok (i vl k)
  | _, _ => .invalidOpcode

/-- The refusal of step 10 of R70 that applies to the stored bits, if one does (D14, D21). -/
def unusedBits (m : Mode) (f : OpEn) (p0 p1 p2 : Byte) : Option DecodeRefusal :=
  if f = .a ∧ ¬ (p0R p0 = 0 ∧ p0R' p0 = 0) then some .unusedBitsFormA
  else if m = .mode32 ∧ ¬ (p0B p0 = 0 ∧ p0R' p0 = 0 ∧ p2V' p2 = 0 ∧ (p1vvvv p1).extractLsb' 3 1 = 0) then
    some .unusedBitsMode32
  else none

/-- Steps 3 to 13 of R70: the bytes after 0x62. A row whose bytes run out is `truncated` before any #UD is judged, that of a
mode without the encodings (R108 (a)) among them (20_memory.md R46, 60_exceptions.md R113: the fetch refusal comes first in
every mode). The bytes after ModRM are those of 30_encoding.md R53 in every mode. DEDUCED, log entry 9. -/
def decodeEvex (m : Mode) (p : Prefixes) (bad : Bool) : List Byte → DecodeResult
  | p0 :: p1 :: p2 :: opcode :: modrm :: rest =>
    if m ≠ .mode64 ∧ p0.extractLsb' 6 2 ≠ 3 then .refused .boundInstruction
    else if p0.extractLsb' 2 2 ≠ 0 ∨ p1.extractLsb' 2 1 ≠ 1 then .refused .reservedBits
    else
      match rowOf (p0mm p0) (p1pp p1) opcode (fieldReg modrm) with
      | none => .refused .outOfScope
      | some f =>
        match readRM (p0X p0) (p0B p0) (p2b p2) modrm rest with
        | none => .truncated
        | some (rm, rest') =>
          let invalid := bad || !m.admitted
          let bRegister := p2b p2 == 1 && fieldMod modrm == 3
          let unused := unusedBits m f p0 p1 p2
          match f with
          | .b =>
            judge invalid bRegister (p2LL p2) (p2z p2) (p2aaa p2) unused fun vl k =>
              .ofVar (elemOf (p1W p1)) vl ⟨p, regOperand p0 modrm, k, vvvvOperand p1 p2, rm⟩
          | .a =>
            match rest' with
            | [] => .truncated
            | imm :: _ =>
              judge invalid bRegister (p2LL p2) (p2z p2) (p2aaa p2) unused fun vl k =>
                .ofImm (elemOf (p1W p1)) vl ⟨p, vvvvOperand p1 p2, k, rm, imm⟩
  | _ => .truncated

/-- Step 2 of R70: the byte after the prefixes must be 0x62. -/
def decodeAfterPrefixes (m : Mode) (p : Prefixes) (bs : List Byte) : DecodeResult :=
  match (skipForbidden m bs).2 with
  | [] => .truncated
  | b :: rest =>
    if b = 0x62 then decodeEvex m p (skipForbidden m bs).1 rest else .refused .outOfScope

/-- The decoder: the decode procedure of 30_encoding.md R70 on the bytes at pc. A code segment with a 16-bit default
size is refused whole (D2). -/
def decode (m : Mode) (bs : List Byte) : DecodeResult :=
  if m = .code16 then .refused .codeSize16
  else
    match scanPrefixes m .noPrefix bs with
    | .truncated => .truncated
    | .refused why => .refused why
    | .found p rest => decodeAfterPrefixes m p rest

/-! ## The encoder (30_encoding.md R48 to R66) -/

/-- The prefix bytes (30_encoding.md R66). -/
def Prefixes.bytes : Prefixes → List Byte
  | .noPrefix => []
  | .seg g => [g.byte]
  | .addr => [0x67]
  | .segAddr g => [g.byte, 0x67]
  | .addrSeg g => [0x67, g.byte]

/-- The element width as `EVEX.W` (30_encoding.md R50). -/
def ElemSize.wBit : ElemSize → BitVec 1
  | .dword => 0
  | .qword => 1

/-- The vector length as `L'L` (30_encoding.md R52). -/
def VL.field : VL → BitVec 2
  | .v128 => 0
  | .v256 => 1
  | .v512 => 2

/-- The masking as `z` (30_encoding.md R62). -/
def Masking.zBit : Masking → BitVec 1
  | .unmasked => 0
  | .merging _ => 0
  | .zeroing _ => 1

/-- The masking as `aaa` (30_encoding.md R62). -/
def Masking.aaa : Masking → BitVec 3
  | .unmasked => 0
  | .merging k => k
  | .zeroing k => k

/-- `ModRM.mod` of an operand with displacement `d` (30_encoding.md R53). -/
def Disp.modField : Disp → BitVec 2
  | .noDisp => 0
  | .d8 _ => 1
  | .d32 _ => 2

/-- A 4-byte displacement, least significant byte first (30_encoding.md R53). -/
def disp32Bytes (v : BitVec 32) : List Byte :=
  [v.extractLsb' 0 8, v.extractLsb' 8 8, v.extractLsb' 16 8, v.extractLsb' 24 8]

/-- The displacement bytes (30_encoding.md R53). -/
def Disp.bytes : Disp → List Byte
  | .noDisp => []
  | .d8 v => [v]
  | .d32 v => disp32Bytes v

/-- What a `ModRM:r/m` operand puts into an encoding: `X`, `B` (as they are before inversion), `EVEX.b`, `ModRM.mod`,
`ModRM.rm`, and the bytes after ModRM. -/
structure RMCode where
  x : BitVec 1
  b : BitVec 1
  bc : BitVec 1
  mod : BitVec 2
  rm : BitVec 3
  tail : List Byte
deriving DecidableEq, Repr

/-- The fourth bit of a general register number, or 0 where there is none. -/
def GReg.highOf : Option GReg → BitVec 1
  | none => 0
  | some r => r.extractLsb' 3 1

/-- `SIB.index` (30_encoding.md R57: 4 where there is no index). -/
def sibIndex : Option GReg → BitVec 3
  | none => 4
  | some r => GReg.low r

/-- `SIB.base` (30_encoding.md R57: 5 where there is no base). -/
def sibBase : Option GReg → BitVec 3
  | none => 5
  | some r => GReg.low r

/-- The encoding of a memory operand (30_encoding.md R53, R57). -/
def Addr.code (bc : BitVec 1) : Addr → RMCode
  | .disp32 v => ⟨0, 0, bc, 0, 5, disp32Bytes v⟩
  | .base b d => ⟨0, GReg.highOf (some b), bc, d.modField, GReg.low b, d.bytes⟩
  | .sib ob oi scale d =>
    ⟨GReg.highOf oi, GReg.highOf ob, bc, (if ob.isNone then 0 else d.modField), 4,
      (scale ++ sibIndex oi ++ sibBase ob : BitVec (2 + 3 + 3)) :: d.bytes⟩

/-- The encoding of a `ModRM:r/m` operand (30_encoding.md R54, R61). -/
def RM.code : RM → RMCode
  | .reg r => ⟨r.extractLsb' 4 1, r.extractLsb' 3 1, 0, 3, r.extractLsb' 0 3, []⟩
  | .mem a bcast => a.code (if bcast then 1 else 0)

/-- `P0` from `R`, `X`, `B`, `R'` and `mm`: the first four are stored inverted (30_encoding.md R49). -/
def mkP0 (r x b r' : BitVec 1) (mm : BitVec 2) : Byte := ~~~ r ++ ~~~ x ++ ~~~ b ++ ~~~ r' ++ 0#2 ++ mm

/-- `P1` from `W` and `vvvv`, stored inverted, with `pp = 01` (30_encoding.md R50). -/
def mkP1 (w : BitVec 1) (vvvv : BitVec 4) : Byte := w ++ ~~~ vvvv ++ 1#1 ++ 1#2

/-- `P2` from `z`, `L'L`, `b`, `V'` (stored inverted) and `aaa` (30_encoding.md R51). -/
def mkP2 (z : BitVec 1) (ll : BitVec 2) (b v' : BitVec 1) (aaa : BitVec 3) : Byte := z ++ ll ++ b ++ ~~~ v' ++ aaa

/-- ModRM from its fields (30_encoding.md R53). -/
def mkModRM (mod : BitVec 2) (reg rm : BitVec 3) : Byte := mod ++ reg ++ rm

/-- The bytes of an immediate form: Op/En A, map 0F, opcode 0x72 /1 (30_encoding.md R48, R55, R63). -/
def encodeImm (e : ElemSize) (vl : VL) (o : ImmForm) : List Byte :=
  let c := o.src.code
  o.prefixes.bytes ++
    (0x62 :: mkP0 0 c.x c.b 0 1 :: mkP1 e.wBit (o.dest.extractLsb' 0 4) ::
      mkP2 o.mask.zBit vl.field c.bc (o.dest.extractLsb' 4 1) o.mask.aaa :: 0x72 :: mkModRM c.mod 1 c.rm ::
      (c.tail ++ [o.imm]))

/-- The bytes of a variable form: Op/En B, map 0F38, opcode 0x15 (30_encoding.md R48, R56, R63). -/
def encodeVar (e : ElemSize) (vl : VL) (o : VarForm) : List Byte :=
  let c := o.count.code
  o.prefixes.bytes ++
    (0x62 :: mkP0 (o.dest.extractLsb' 3 1) c.x c.b (o.dest.extractLsb' 4 1) 2 ::
      mkP1 e.wBit (o.src.extractLsb' 0 4) ::
      mkP2 o.mask.zBit vl.field c.bc (o.src.extractLsb' 4 1) o.mask.aaa :: 0x15 ::
      mkModRM c.mod (o.dest.extractLsb' 0 3) c.rm :: c.tail)

/-- The bytes of a well-formed instruction (30_encoding.md R48). -/
def encode : Instr → List Byte
  | .vprolvd128 o => encodeVar .dword .v128 o
  | .vprold128 o => encodeImm .dword .v128 o
  | .vprolvq128 o => encodeVar .qword .v128 o
  | .vprolq128 o => encodeImm .qword .v128 o
  | .vprolvd256 o => encodeVar .dword .v256 o
  | .vprold256 o => encodeImm .dword .v256 o
  | .vprolvq256 o => encodeVar .qword .v256 o
  | .vprolq256 o => encodeImm .qword .v256 o
  | .vprolvd512 o => encodeVar .dword .v512 o
  | .vprold512 o => encodeImm .dword .v512 o
  | .vprolvq512 o => encodeVar .qword .v512 o
  | .vprolq512 o => encodeImm .qword .v512 o

/-! ## Length (30_encoding.md R65) -/

/-- `P`, the number of legacy prefix bytes. -/
def Prefixes.count : Prefixes → Nat
  | .noPrefix => 0
  | .seg _ => 1
  | .addr => 1
  | .segAddr _ => 2
  | .addrSeg _ => 2

/-- `D`, the number of displacement bytes. -/
def Disp.size : Disp → Nat
  | .noDisp => 0
  | .d8 _ => 1
  | .d32 _ => 4

/-- `S + D`: the SIB byte and the displacement bytes of an operand. -/
def RM.tailSize : RM → Nat
  | .reg _ => 0
  | .mem (.disp32 _) _ => 4
  | .mem (.base _ d) _ => d.size
  | .mem (.sib _ _ _ d) _ => 1 + d.size

/-- `ILEN = P + 4 + 1 + 1 + S + D + I` of an immediate form, `I = 1` (30_encoding.md R65). -/
def ImmForm.ilen (o : ImmForm) : Nat := o.prefixes.count + 4 + 1 + 1 + o.src.tailSize + 1

/-- `ILEN` of a variable form, `I = 0` (30_encoding.md R65). -/
def VarForm.ilen (o : VarForm) : Nat := o.prefixes.count + 4 + 1 + 1 + o.count.tailSize

/-- `ILEN`, the instruction's length in bytes (30_encoding.md R65). -/
def Instr.ilen : Instr → Nat
  | .vprolvd128 o => o.ilen
  | .vprold128 o => o.ilen
  | .vprolvq128 o => o.ilen
  | .vprolq128 o => o.ilen
  | .vprolvd256 o => o.ilen
  | .vprold256 o => o.ilen
  | .vprolvq256 o => o.ilen
  | .vprolq256 o => o.ilen
  | .vprolvd512 o => o.ilen
  | .vprold512 o => o.ilen
  | .vprolvq512 o => o.ilen
  | .vprolq512 o => o.ilen

/-! ## The opcode table (30_encoding.md R63, R71) -/

/-- A row's `match` and `mask`: 48-bit numbers over `62 P0 P1 P2 OPCODE MODRM`, 0x62 most significant (R71). -/
structure TableRow where
  pattern : BitVec 48
  mask : BitVec 48
deriving DecidableEq, Repr

/-- The row of spec/opcode_table.json that an instruction stands for, its numbers copied from the table. -/
def Instr.tableRow : Instr → TableRow
  | .vprolvd128 _ => ⟨0x620205001500, 0xFF0F8760FF00⟩
  | .vprold128 _ => ⟨0x629105007208, 0xFF9F8760FF38⟩
  | .vprolvq128 _ => ⟨0x620285001500, 0xFF0F8760FF00⟩
  | .vprolq128 _ => ⟨0x629185007208, 0xFF9F8760FF38⟩
  | .vprolvd256 _ => ⟨0x620205201500, 0xFF0F8760FF00⟩
  | .vprold256 _ => ⟨0x629105207208, 0xFF9F8760FF38⟩
  | .vprolvq256 _ => ⟨0x620285201500, 0xFF0F8760FF00⟩
  | .vprolq256 _ => ⟨0x629185207208, 0xFF9F8760FF38⟩
  | .vprolvd512 _ => ⟨0x620205401500, 0xFF0F8760FF00⟩
  | .vprold512 _ => ⟨0x629105407208, 0xFF9F8760FF38⟩
  | .vprolvq512 _ => ⟨0x620285401500, 0xFF0F8760FF00⟩
  | .vprolq512 _ => ⟨0x629185407208, 0xFF9F8760FF38⟩

/-- A six-byte sequence, read as a big-endian number, selects the row (30_encoding.md R71). -/
def TableRow.selects (r : TableRow) (s : BitVec 48) : Bool := s &&& r.mask == r.pattern

/-! ## Words of the opcode table -/

/-- The `n` low bytes of a number, the least significant first. -/
def lowBytes : Nat → Nat → List Byte
  | 0, _ => []
  | n + 1, w => BitVec.ofNat 8 w :: lowBytes n (w / 256)

/-- `bs` followed by zero bytes, `Config.maxFetch` bytes in all. -/
def padded (bs : List Byte) : List Byte := (bs ++ List.replicate Config.maxFetch 0).take Config.maxFetch

/-- Does the decoder read an instruction of `Mode64` from the bytes? -/
def decodes (bs : List Byte) : Option Instr :=
  match decode .mode64 (padded bs) with
  | .ok i => some i
  | _ => none

/-- The bytes of a table word, in the order the hardware stores them: its first byte is bits 7..0. A number written as
R71 writes `match`, with 0x62 in the most significant byte, is read in that order where the first reading is no
instruction (log entry 10). -/
def tableBytes (nbits w : Nat) : List Byte :=
  let low := lowBytes (nbits / 8) w
  if (decodes low).isNone && (decodes low.reverse).isSome then low.reverse else low

/-- The instruction the decoder reads, in `Mode64`, from a table word with zero bytes after it. -/
def decodeTableWord (nbits w : Nat) : Option Instr := decodes (tableBytes nbits w)

end Sys2Proof
end

