-- ==== Sys2Proof/Machine/State.lean ====
section
/-! DEFINITION. The state of the machine as plain data, its faults and refusals, and the state a run starts from
(10_state.md; 60_exceptions.md R107; 70_reset_and_hazards.md R125). -/

namespace Sys2Proof.Machine

open Sys2Proof

/-- Memory: (address, byte) pairs, addresses strictly rising, no entry equal to `Config.unlistedByte` (10_state.md R24,
20_memory.md R28). -/
abbrev Memory := List Host.Cell

/-- The segment bases, `SegBase` of 30_encoding.md R59 before the mode is taken into account (10_state.md R20). The spec gives a
base no width: 64 bits for all six, in both modes, is PRESUMED, log entry 19. -/
structure SegBases where
  es : Word
  cs : Word
  ss : Word
  ds : Word
  fs : Word
  gs : Word
deriving DecidableEq, Repr

/-- Why the environment lets a byte of a memory operand not be read (60_exceptions.md R110). -/
inductive ReadFault where
  /-- Outside the limit of the effective segment: #SS(0) through SS, #GP(0) through any other. -/
  | segmentLimit
  /-- A null selector or a segment that is not readable: #GP(0). -/
  | segmentRights
  /-- A page fault: whether the page was present, whether a reserved bit was set, and the higher bits of the fault
  code (60_exceptions.md R111; their number is PRESUMED, log entry 18). -/
  | page (present reserved : Bool) (higher : BitVec 27)
deriving DecidableEq, Repr

/-- One answer of `MemReadable` that is not `ok`: for the linear addresses `first` to `last`, reached through segment
`seg` (`none`: through any), the fault is `fault` (20_memory.md R35). -/
structure ReadRule where
  seg : Option Seg
  first : Nat
  last : Nat
  fault : ReadFault
deriving DecidableEq, Repr

/-- The linear addresses `first` to `last`. -/
structure Span where
  first : Nat
  last : Nat
deriving DecidableEq, Repr

/-- The environment: the open parameters of 00_scope.md R7 that no register holds. It never changes. -/
structure Env where
  /-- `FaultSuppression` (20_memory.md R36; D5). -/
  faultSuppression : Bool
  /-- Whether a canonical address has 57 or 48 significant bits (20_memory.md R39). -/
  fiveLevelPaging : Bool
  /-- The answers of `MemReadable` other than `ok`, first match (20_memory.md R35; D22). -/
  readRules : List ReadRule
  /-- Addresses outside ordinary memory: an operand there is refused (20_memory.md R38; D23). -/
  devices : List Span
  /-- Addresses whose bytes cannot be fetched (20_memory.md R46; D8). -/
  noFetch : List Span
deriving DecidableEq, Repr

/-- The machine's state: every piece of state the spec names (10_state.md R13 to R27; 60_exceptions.md R111). -/
structure State where
  /-- The vector registers ZMM0 to ZMM31 (10_state.md R14, R15). -/
  zmm : Vector Vec 32
  /-- The opmask registers K0 to K7 (10_state.md R17). -/
  k : Vector (BitVec Config.kw) 8
  /-- The general registers RAX to R15 (10_state.md R19). -/
  gpr : Vector Word 16
  /-- The instruction pointer, RIP or EIP (10_state.md R18). -/
  pc : Word
  /-- The segment bases (10_state.md R20). -/
  segBases : SegBases
  /-- EFLAGS/RFLAGS (10_state.md R21, R23). -/
  rflags : Word
  /-- The SIMD control and status register (10_state.md R21). -/
  mxcsr : BitVec 32
  /-- The x87 status (10_state.md R21). -/
  x87Status : BitVec 16
  /-- CR0 (10_state.md R23). -/
  cr0 : Word
  /-- CR2, the faulting linear address (60_exceptions.md R111). -/
  cr2 : Word
  /-- CR4 (10_state.md R23). -/
  cr4 : Word
  /-- XCR0 (10_state.md R23). -/
  xcr0 : Word
  /-- IA32_EFER (10_state.md R23). -/
  efer : Word
  /-- The L bit of the CS descriptor (10_state.md R23). -/
  csL : Bool
  /-- The D bit of the CS descriptor (10_state.md R23). -/
  csD : Bool
  /-- The current privilege level (10_state.md R23; 60_exceptions.md R118). -/
  cpl : BitVec 2
  /-- `HAS_AVX512F` (10_state.md R22). -/
  hasAvx512f : Bool
  /-- `HAS_AVX512VL` (10_state.md R22). -/
  hasAvx512vl : Bool
  /-- The environment (00_scope.md R7). -/
  env : Env
  /-- Memory (10_state.md R24). -/
  mem : Memory
deriving DecidableEq, Repr

/-- The faults, each a terminal outcome of the step that leaves every register, memory byte and the pc as they were
(60_exceptions.md R107, R115; D16). All are the spec's own outcome; stopping where a processor would enter a handler
is safe. -/
inductive Fault where
  /-- #UD, vector 6: raised by `checkEnabled`, by `stopInvalid` and `stopUnusedBits` (60_exceptions.md R108). Safe. -/
  | invalidOpcode
  /-- #NM, vector 7: raised by `checkEnabled` when TS is set (60_exceptions.md R109). Safe. -/
  | deviceNotAvailable
  /-- #SS(0), vector 12: raised by `memRead` (60_exceptions.md R110). Safe. -/
  | stackSegment
  /-- #GP(0), vector 13: raised by `memRead` (60_exceptions.md R110). Safe. -/
  | generalProtection
  /-- #PF, vector 14, with its fault code and the lowest faulting linear address: raised by `memRead`
  (60_exceptions.md R110, R111; the code's 32 bits are PRESUMED, log entry 18). Safe. -/
  | pageFault (code : BitVec 32) (address : Word)
deriving DecidableEq, Repr

/-- The refusals: the run is outside the spec and no transition exists (92_eei_decisions.md). All safe: the model
stops and claims nothing. -/
inductive Refusal where
  /-- An instruction without a meaning yet, refused by its arm of `exec`. Safe. No arm uses it. -/
  | notModelled (mnemonic : String)
  /-- The decoder refused the bytes (`stopRefused`, `stopUnusedBits`), or `checkEnabled` a 16-bit code segment (30_encoding.md R69, R70). Safe. -/
  | undecodable (why : DecodeRefusal)
  /-- An instruction byte cannot be fetched, or the bytes straddle the top of the address space or a non-canonical
  boundary: raised by `stopTruncated` (20_memory.md R46; 10_state.md R18; D8, D11). Safe. -/
  | notFetchable
  /-- The memory operand wraps the top of the address space: raised by `memRead` (20_memory.md R29; D11). Safe. -/
  | operandWraps
  /-- AlignCheckOn holds and the memory operand is not aligned to its size: raised by `memRead` (20_memory.md R34;
  D4). Safe. -/
  | alignmentCheck
  /-- The memory operand lies outside ordinary memory: raised by `memRead` (20_memory.md R38; D23). Safe. -/
  | deviceMemory
deriving DecidableEq, Repr

/-- The environment at launch: faults not suppressed (the spec's default, D5), and every canonical byte readable,
ordinary and fetchable (70_reset_and_hazards.md R126 step 6). DESIGN CHOICE, unsafe, log entry 6. -/
def Env.launch : Env where
  faultSuppression := false
  fiveLevelPaging := false
  readRules := []
  devices := []
  noFetch := []

/-- The launch state (10_state.md R27; 70_reset_and_hazards.md R125; D18: there is no reset step). The control words hold
the bits that the launch premises of 00_scope.md R7 and 70_reset_and_hazards.md R126 fix, in `Mode64` (log entry 2); MXCSR,
the flags, the x87 status, CR2 and CPL hold the family's values (PRESUMED, log entry 4); everything else is zero (DESIGN
CHOICE, log entries 1 and 3). -/
def State.reset : State where
  zmm := Vector.replicate 32 0
  k := Vector.replicate 8 0
  gpr := Vector.replicate 16 0
  pc := 0
  segBases := ⟨0, 0, 0, 0, 0, 0⟩
  rflags := 0x2
  mxcsr := 0x1F80
  x87Status := 0
  cr0 := 0x1
  cr2 := 0
  cr4 := 0x40000
  xcr0 := 0xE7
  efer := 0x400
  csL := true
  csD := false
  cpl := 0
  hasAvx512f := true
  hasAvx512vl := true
  env := Env.launch
  mem := []

end Sys2Proof.Machine
end

