-- ==== Sys2Proof/Machine/Flags.lean ====
section
/-! DEFINITION. The control and status bits that decide whether an instruction executes (10_state.md R23). No instruction
computes a flag: none is read as data and none is written (10_state.md R21; 40_rotate_left.md R85 to R88). -/

namespace Sys2Proof.Machine

open Sys2Proof

/-- CR0.PE, bit 0 (10_state.md R23). -/
def State.pe (s : State) : Bool := s.cr0.getLsbD 0

/-- `TS` = CR0.TS, bit 3 (10_state.md R23; 60_exceptions.md R109). -/
def State.ts (s : State) : Bool := s.cr0.getLsbD 3

/-- CR0.AM, bit 18 (10_state.md R23). -/
def State.am (s : State) : Bool := s.cr0.getLsbD 18

/-- CR4.OSXSAVE, bit 18 (10_state.md R23). -/
def State.osxsave (s : State) : Bool := s.cr4.getLsbD 18

/-- EFLAGS.VM, bit 17 (10_state.md R23). -/
def State.vm (s : State) : Bool := s.rflags.getLsbD 17

/-- EFLAGS.AC, bit 18 (10_state.md R23). -/
def State.ac (s : State) : Bool := s.rflags.getLsbD 18

/-- IA32_EFER.LMA, bit 10 (10_state.md R23). -/
def State.lma (s : State) : Bool := s.efer.getLsbD 10

/-- `MODE`, folded from CR0.PE, EFLAGS.VM, IA32_EFER.LMA and CS.L and CS.D as 10_state.md R23 tables them. DEDUCED, log
entry 7: the order in which the conditions are taken. -/
def State.mode (s : State) : Mode :=
  if !s.pe then .real
  else if s.vm then .virtual8086
  else if s.lma && s.csL then .mode64
  else if s.csD then .mode32
  else .code16

/-- `OS_ENABLED`: CR4.OSXSAVE, XCR0 bits 2:1 both 1 and XCR0 bits 7:5 all 1 (60_exceptions.md R108 (b)). -/
def State.osEnabled (s : State) : Bool :=
  s.osxsave && s.xcr0.extractLsb' 1 2 == 3#2 && s.xcr0.extractLsb' 5 3 == 7#3

/-- `AlignCheckOn`: CR0.AM, EFLAGS.AC and privilege level 3 (10_state.md R23; 20_memory.md R34). -/
def State.alignCheckOn (s : State) : Bool := s.am && s.ac && s.cpl == 3

/-- `AW`, the width of a linear address: 64 in `Mode64`, 32 in `Mode32` (00_scope.md R7; D22). The spec gives it for these two
modes only: the 32 of real-address, virtual-8086 and 16-bit code is the model's. DESIGN CHOICE, log entry 17. -/
def State.addressWidth (s : State) : Nat := if s.mode = .mode64 then 64 else 32

/-- The feature-flag condition of a vector length: 512-bit forms need AVX512F, the shorter ones AVX512VL too
(60_exceptions.md R108 (c); 00_scope.md R2). -/
def State.hasFeatures (s : State) : VL → Bool
  | .v512 => s.hasAvx512f
  | .v128 => s.hasAvx512f && s.hasAvx512vl
  | .v256 => s.hasAvx512f && s.hasAvx512vl

/-- The #UD conditions of the state: step 9 of R70, U-f and U-h (60_exceptions.md R108 (a), (b), (c)). -/
def State.undefinedOpcode (s : State) (vl : VL) : Bool :=
  s.mode == .real || s.mode == .virtual8086 || !s.osEnabled || !s.hasFeatures vl

end Sys2Proof.Machine
end

