-- ==== Sys2Proof/Machine/Ops.lean ====
section
/-! DEFINITION. The named operations over registers and memory, the reads the environment answers, and taking an
exception (00_scope.md R9; 20_memory.md; 60_exceptions.md). -/

namespace Sys2Proof.Machine

open Sys2Proof Host

/-! ## Outcomes -/

/-- Run `f` on the value of an outcome that has one; a fault or a refusal stands. -/
def andThen {α β : Type} (o : Outcome α Fault Refusal) (f : α → Outcome β Fault Refusal) : Outcome β Fault Refusal :=
  match o with
  | .next a => f a
  | .fault r => .fault r
  | .refused r => .refused r

/-! ## Taking an exception (60_exceptions.md R107, R111, R115) -/

/-- `raise`: the step's outcome is the fault, and the architectural state is exactly the state before the instruction
(60_exceptions.md R115; D16). The spec does not specify delivery (R114) and no instruction returns from a fault (R116), so
there is no return beside it. -/
def raise {α : Type} (f : Fault) : Outcome α Fault Refusal := .fault f

/-- The vector number of an exception (60_exceptions.md R107). -/
def Fault.vector : Fault → Nat
  | .invalidOpcode => 6
  | .deviceNotAvailable => 7
  | .stackSegment => 12
  | .generalProtection => 13
  | .pageFault _ _ => 14

/-- The error code recorded: none for #UD and #NM, 0 for #SS and #GP, the fault code for #PF (60_exceptions.md R111). The spec
gives it no width: 32 bits is PRESUMED, log entry 18. -/
def Fault.errorCode : Fault → Option (BitVec 32)
  | .invalidOpcode => none
  | .deviceNotAvailable => none
  | .stackSegment => some 0
  | .generalProtection => some 0
  | .pageFault code _ => some code

/-- What CR2 is loaded with: the faulting linear address, for #PF only (60_exceptions.md R111). -/
def Fault.faultAddress : Fault → Option Word
  | .pageFault _ a => some a
  | _ => none

/-- The instruction pointer recorded: every exception here is a fault, so it is that of the faulting instruction
(60_exceptions.md R111). -/
def Fault.savedPc (_ : Fault) (s : State) : Word := s.pc

/-- The #PF fault code: bit 0 present, bit 1 zero (a read), bit 2 privilege level 3, bit 3 reserved bit, bit 4 zero (no
fetch), higher bits as the environment gives them (60_exceptions.md R111). The spec gives the code no width: 32 bits, 27 of
them higher bits, is PRESUMED, log entry 18. -/
def pageFaultCode (present user reserved : Bool) (higher : BitVec 27) : BitVec 32 :=
  higher ++ 0#1 ++ BitVec.ofBool reserved ++ BitVec.ofBool user ++ 0#1 ++ BitVec.ofBool present

/-! ## Memory (20_memory.md R28, R31) -/

/-- The byte at an address. -/
def Memory.read : Memory → Nat → Byte
  | [], _ => Config.unlistedByte
  | (x, v) :: m, a => if a = x then v else Memory.read m a

/-- Put a byte before the cells of higher addresses, unless it is what an unlisted address reads as. -/
def Memory.cons (a : Nat) (v : Byte) (m : Memory) : Memory := if v = Config.unlistedByte then m else (a, v) :: m

/-- Write one byte, keeping the canonical form. -/
def Memory.write : Memory → Nat → Byte → Memory
  | [], a, v => Memory.cons a v []
  | (x, u) :: m, a, v =>
    if a < x then Memory.cons a v ((x, u) :: m)
    else if a = x then Memory.cons a v m
    else (x, u) :: Memory.write m a v

/-- `MemWrite`: bytes at consecutive addresses of the 64-bit space, the first at `a` (00_scope.md R9: no instruction in
scope calls it; it places a program). -/
def Memory.writeBytes : Memory → Nat → List Byte → Memory
  | m, _, [] => m
  | m, a, b :: bs => Memory.writeBytes (m.write (a % 2 ^ 64) b) (a + 1) bs

/-- The canonical form from an address on: addresses strictly rising and below `2^64`, no unlisted byte listed. -/
def Memory.wfFrom : Nat → Memory → Bool
  | _, [] => true
  | lo, (x, v) :: m => decide (lo ≤ x) && decide (x < 2 ^ 64) && v != Config.unlistedByte && Memory.wfFrom (x + 1) m

/-- The canonical form of a memory. -/
def Memory.wf (m : Memory) : Bool := Memory.wfFrom 0 m

/-! ## Registers -/

/-- `ZMM[n]` (00_scope.md R9; 10_state.md R14). -/
def State.readZmm (s : State) (r : VReg) : Vec := s.zmm[r.toNat]'r.isLt

/-- `ZMM[n] <- v`: all `MAXVL` bits (00_scope.md R9). -/
def State.writeZmm (s : State) (r : VReg) (v : Vec) : State := { s with zmm := s.zmm.set r.toNat v r.isLt }

/-- `K[n]` (00_scope.md R9; 10_state.md R17). -/
def State.readK (s : State) (r : KReg) : BitVec Config.kw := s.k[r.toNat]'r.isLt

/-- `x[i]` at the address size `a`: the low 32 bits of the register when `a = 32` (30_encoding.md R57). -/
def State.readGpr (s : State) (a : Nat) (r : GReg) : Word :=
  BitVec.ofNat 64 ((s.gpr[r.toNat]'r.isLt).toNat % 2 ^ a)

/-- `pc <- (pc + ILEN) mod 2^AW` (10_state.md R18; 40_rotate_left.md R102). -/
def State.nextPc (s : State) (len : Nat) : Word := BitVec.ofNat 64 ((s.pc.toNat + len) % 2 ^ s.addressWidth)

/-- `pc <- target`. -/
def State.setPc (s : State) (v : Word) : State := { s with pc := v }

/-- The same state with other memory contents. -/
def State.setMem (s : State) (m : Memory) : State := { s with mem := m }

/-- A completed step: the destination register and the pc, and nothing else (10_state.md R26; D10). -/
def State.complete (s : State) (len : Nat) (d : VReg) (v : Vec) : State := (s.writeZmm d v).setPc (s.nextPc len)

/-! ## What the environment answers (20_memory.md R35, R38, R39, R46) -/

/-- Does the span hold the address? -/
def Span.holds (w : Span) (a : Nat) : Bool := decide (w.first ≤ a) && decide (a ≤ w.last)

/-- A canonical linear address: bits 63:48 equal to bit 47, or 63:57 equal to bit 56 with five-level paging; outside
`Mode64` every address is (20_memory.md R39). -/
def State.canonical (s : State) (a : Nat) : Bool :=
  let n := if s.env.fiveLevelPaging then 56 else 47
  s.mode != .mode64 || decide (a < 2 ^ n) || decide (2 ^ 64 - 2 ^ n ≤ a)

/-- The fault of a segment-limit or canonical violation: #SS(0) through SS, #GP(0) through any other segment
(60_exceptions.md R110). -/
def segmentViolation (g : Seg) : Fault := if g = .ss then .stackSegment else .generalProtection

/-- Is the answer about this address reached through this segment? -/
def ReadRule.applies (r : ReadRule) (g : Seg) (a : Nat) : Bool :=
  (r.seg == none || r.seg == some g) && decide (r.first ≤ a) && decide (a ≤ r.last)

/-- The segment-level fault of a rule (60_exceptions.md R110). -/
def ReadRule.segmentFault (r : ReadRule) (g : Seg) : Option Fault :=
  match r.fault with
  | .segmentLimit => some (segmentViolation g)
  | .segmentRights => some .generalProtection
  | .page _ _ _ => none

/-- The page fault of a rule at an address (60_exceptions.md R110, R111). -/
def ReadRule.pageFault (r : ReadRule) (user : Bool) (a : Nat) : Option Fault :=
  match r.fault with
  | .page present reserved higher => some (.pageFault (pageFaultCode present user reserved higher) (BitVec.ofNat 64 a))
  | _ => none

/-- The segment-level fault of reading one byte, if any: a non-canonical address, or a rule of the environment. -/
def State.segmentFaultAt (s : State) (g : Seg) (a : Nat) : Option Fault :=
  if s.canonical a then
    s.env.readRules.findSome? fun r => if r.applies g a then r.segmentFault g else none
  else some (segmentViolation g)

/-- The page fault of reading one byte, if any. -/
def State.pageFaultAt (s : State) (g : Seg) (a : Nat) : Option Fault :=
  s.env.readRules.findSome? fun r => if r.applies g a then r.pageFault (s.cpl == 3) a else none

/-- `MemReadable` on the bytes of an access: `none` is `ok`. Segment-level checks come before paging, and of several
faulting bytes the first in `as` is reported (20_memory.md R35; 60_exceptions.md R111, R113). -/
def State.memReadable (s : State) (g : Seg) (as : List Nat) : Option Fault :=
  match as.findSome? (s.segmentFaultAt g) with
  | some f => some f
  | none => as.findSome? (s.pageFaultAt g)

/-- Does the environment mark the address as outside ordinary memory (20_memory.md R38)? -/
def State.isDevice (s : State) (a : Nat) : Bool := s.env.devices.any fun w => w.holds a

/-- Can the byte at the address be fetched: inside the address space, canonical, and allowed by the environment
(20_memory.md R46; 10_state.md R18)? -/
def State.fetchable (s : State) (a : Nat) : Bool :=
  decide (a < 2 ^ s.addressWidth) && s.canonical a && !(s.env.noFetch.any fun w => w.holds a)

/-! ## Whether an instruction executes (30_encoding.md R70 steps 9 and 11) -/

/-- #UD before #NM (60_exceptions.md R108, R109, R113); a 16-bit code segment is refused (D2). -/
def checkEnabled (s : State) (vl : VL) : Outcome Unit Fault Refusal :=
  if s.mode = .code16 then .refused (.undecodable .codeSize16)
  else if s.undefinedOpcode vl then raise .invalidOpcode
  else if s.ts then raise .deviceNotAvailable
  else .next ()

end Sys2Proof.Machine
end

