-- ==== Sys2Proof/Machine/Lanes.lean ====
section
/-! DEFINITION. Elements of a vector, the rotation of one element, and write-masking (40_rotate_left.md R77 to R84). -/

namespace Sys2Proof.Machine

open Sys2Proof

/-- `KL = VL / W`, the number of elements (00_scope.md R10). -/
def laneCount (e : ElemSize) (vl : VL) : Nat := vl.bits / e.bits

/-- Element `j` of a vector: bits `[j*w+w-1 : j*w]` (40_rotate_left.md R83). -/
def lane (w : Nat) (v : Vec) (j : Nat) : BitVec w := v.extractLsb' (j * w) w

/-- The vector whose first `n` elements are `f 0 .. f (n-1)` and whose bits above them are 0 (40_rotate_left.md R82). -/
def packLanes (w : Nat) (f : Nat → BitVec w) : Nat → Vec
  | 0 => 0
  | n + 1 => packLanes w f n ||| ((f n).setWidth 512 <<< (n * w))

/-- `ROL32` and `ROL64`: with `k = c mod w`, the low `w` bits of `(x << k) OR (x >> (w - k))` on unbounded integers
(40_rotate_left.md R77, R78, R80). -/
def rol {w : Nat} (x : BitVec w) (c : Nat) : BitVec w :=
  BitVec.ofNat w ((x.toNat <<< (c % w)) ||| (x.toNat >>> (w - c % w)))

/-- `enabled(j)`: no writemask, or mask bit `j` is 1 (40_rotate_left.md R81). -/
def State.enabled (s : State) (m : Masking) (j : Nat) : Bool :=
  match m with
  | .unmasked => true
  | .merging k => (s.readK k).getLsbD j
  | .zeroing k => (s.readK k).getLsbD j

/-- Element `j` of the result: the rotation if the element is enabled, else the old element (merging) or 0 (zeroing)
(40_rotate_left.md R81). -/
def State.maskedLane (s : State) {w : Nat} (m : Masking) (j : Nat) (new old : BitVec w) : BitVec w :=
  if s.enabled m j then new
  else
    match m with
    | .zeroing _ => 0
    | _ => old

/-- `NEW`: the whole new destination register, every input read first (40_rotate_left.md R82, R84). `rotated j` is the
rotated element `j`. -/
def State.maskedResult (s : State) (e : ElemSize) (vl : VL) (m : Masking) (d : VReg)
    (rotated : Nat → BitVec e.bits) : Vec :=
  packLanes e.bits (fun j => s.maskedLane m j (rotated j) (lane e.bits (s.readZmm d) j)) (laneCount e vl)

end Sys2Proof.Machine
end

