-- ==== Sys2Proof/Machine/Operands.lean ====
section
/-! DEFINITION. Operand forms: the address of a memory operand (30_encoding.md R57 to R60), the read of it
(20_memory.md R29 to R38), and the `ModRM:r/m` operand in its three forms (40_rotate_left.md R83). -/

namespace Sys2Proof.Machine

open Sys2Proof Host

/-! ## Addresses -/

/-- `N` of 30_encoding.md R60, which equals `n` of 20_memory.md R29: the bytes of the memory operand actually read. -/
def operandBytes (e : ElemSize) (vl : VL) (bcast : Bool) : Nat := if bcast then e.bits / 8 else vl.bits / 8

/-- Is an address-size override present? -/
def hasAddressOverride : Prefixes → Bool
  | .noPrefix => false
  | .seg _ => false
  | .addr => true
  | .segAddr _ => true
  | .addrSeg _ => true

/-- The segment named by an override, if one is present (30_encoding.md R59, R66). -/
def segmentOverride : Prefixes → Option Seg
  | .noPrefix => none
  | .seg g => some g
  | .addr => none
  | .segAddr g => some g
  | .addrSeg g => some g

/-- `A`, the address size: 64 in `Mode64` without 0x67, else 32 (30_encoding.md R57, R58). -/
def State.addressSize (s : State) (p : Prefixes) : Nat :=
  if s.mode = .mode64 ∧ hasAddressOverride p = false then 64 else 32

/-- `DISP`: 0, the 8-bit displacement times `N`, or the 32-bit displacement, sign-extended (30_encoding.md R53, R57, R60). -/
def dispValue (n : Nat) : Disp → Word
  | .noDisp => 0
  | .d8 v => v.signExtend 64 * BitVec.ofNat 64 n
  | .d32 v => v.signExtend 64

/-- A register's contribution to an address, 0 where there is none. -/
def State.addressPart (s : State) (a : Nat) : Option GReg → Word
  | none => 0
  | some r => s.readGpr a r

/-- `EA`: the effective address of a memory operand of an instruction of `len` bytes, with `n` the operand's bytes
(30_encoding.md R57; in `Mode32` R58, where the form without a base is absolute). -/
def State.effectiveAddress (s : State) (p : Prefixes) (len n : Nat) (a : Addr) : Word :=
  let size := s.addressSize p
  let full : Word :=
    match a with
    | .disp32 v => (if s.mode = .mode64 then s.nextPc len else 0) + v.signExtend 64
    | .base b d => s.readGpr size b + dispValue n d
    | .sib ob oi scale d =>
      s.addressPart size ob + (s.addressPart size oi <<< scale.toNat) + dispValue n d
  BitVec.ofNat 64 (full.toNat % 2 ^ size)

/-- The base register of an address form, if it uses one. -/
def addrBase : Addr → Option GReg
  | .disp32 _ => none
  | .base b _ => some b
  | .sib ob _ _ _ => ob

/-- `seg`: the segment of an override, else SS when the base register is numbered 4 or 5, else DS (30_encoding.md R59). -/
def effectiveSegment (p : Prefixes) (a : Addr) : Seg :=
  match segmentOverride p with
  | some g => g
  | none => if addrBase a = some 4 ∨ addrBase a = some 5 then .ss else .ds

/-- The base held for a segment. -/
def SegBases.get (b : SegBases) : Seg → Word
  | .es => b.es
  | .cs => b.cs
  | .ss => b.ss
  | .ds => b.ds
  | .fs => b.fs
  | .gs => b.gs

/-- `SegBase(seg)`: in `Mode64`, 0 for all but FS and GS (30_encoding.md R59; D29). -/
def State.segBase (s : State) (g : Seg) : Word :=
  if s.mode = .mode64 ∧ g ≠ .fs ∧ g ≠ .gs then 0 else s.segBases.get g

/-- `LA = (SegBase(seg) + EA) mod 2^AW` (30_encoding.md R59). -/
def State.linearAddress (s : State) (p : Prefixes) (len n : Nat) (a : Addr) : Nat :=
  ((s.segBase (effectiveSegment p a)).toNat + (s.effectiveAddress p len n a).toNat) % 2 ^ s.addressWidth

/-! ## The read of a memory operand -/

/-- Is byte `i` of a memory operand accessed? Always without FaultSuppression; with it, when its element is enabled, and
for a broadcast element when some element is (20_memory.md R36). -/
def State.accesses (s : State) (e : ElemSize) (vl : VL) (m : Masking) (bcast : Bool) (i : Nat) : Bool :=
  !s.env.faultSuppression ||
    (if bcast then (List.range (laneCount e vl)).any fun j => s.enabled m j else s.enabled m (i * 8 / e.bits))

/-- The addresses of the accessed bytes of an operand at `la`, lowest first. -/
def accessedAddresses (la n : Nat) (acc : Nat → Bool) : List Nat := ((List.range n).filter acc).map fun i => la + i

/-- `MemRead(la, n)` of the bytes that `acc` selects: the refusals of D11, D4 and D23, then the fault that the
environment names, else the bytes, the one at `la` lowest (20_memory.md R29, R31, R34, R35, R36, R38). -/
def memRead (s : State) (g : Seg) (la n : Nat) (acc : Nat → Bool) : Outcome Vec Fault Refusal :=
  if 2 ^ s.addressWidth < la + n then .refused .operandWraps
  else if s.alignCheckOn && la % n != 0 then .refused .alignmentCheck
  else if (accessedAddresses la n acc).any s.isDevice then .refused .deviceMemory
  else
    match s.memReadable g (accessedAddresses la n acc) with
    | some f => raise f
    | none => .next (packLanes 8 (fun i => if acc i then s.mem.read (la + i) else 0) n)

/-- The `ModRM:r/m` operand of an instruction of `len` bytes: a register, or the memory operand's bytes
(40_rotate_left.md R83, R85 to R88). -/
def State.readRM (s : State) (p : Prefixes) (len : Nat) (e : ElemSize) (vl : VL) (m : Masking) (rm : RM) :
    Outcome Vec Fault Refusal :=
  match rm with
  | .reg r => .next (s.readZmm r)
  | .mem a bcast =>
    memRead s (effectiveSegment p a) (s.linearAddress p len (operandBytes e vl bcast) a) (operandBytes e vl bcast)
      (s.accesses e vl m bcast)

/-- Is the operand a broadcast element (30_encoding.md R61)? -/
def isBroadcast : RM → Bool
  | .reg _ => false
  | .mem _ bcast => bcast

/-- The bits of the operand that element `j` uses: element 0 for a broadcast operand, else element `j`
(40_rotate_left.md R83). -/
def rmLane (e : ElemSize) (rm : RM) (v : Vec) (j : Nat) : BitVec e.bits :=
  if isBroadcast rm then lane e.bits v 0 else lane e.bits v j

end Sys2Proof.Machine
end

