-- ==== Sys2Proof/Machine/RotateImmediate.lean ====
section
/-! DEFINITION. The immediate forms: VPROLD (40_rotate_left.md R85) and VPROLQ (R87), one meaning for each row. -/

namespace Sys2Proof.Machine

open Sys2Proof Host

/-- The rule of 40_rotate_left.md R85 (`dword`) and R87 (`qword`): check, read the operand, rotate every enabled element
left by `imm8`, write the destination once, advance the pc. -/
def rotateImmediate (e : ElemSize) (vl : VL) (o : ImmForm) (s : State) : Outcome State Fault Refusal :=
  andThen (checkEnabled s vl) fun _ =>
    andThen (s.readRM o.prefixes o.ilen e vl o.mask o.src) fun v =>
      .next (s.complete o.ilen o.dest
        (s.maskedResult e vl o.mask o.dest fun j => rol (rmLane e o.src v j) o.imm.toNat))

/-- Row 2, `EVEX.128.66.0F.W0 72 /1 ib` (40_rotate_left.md R90). -/
def execVprold128 (o : ImmForm) (s : State) : Outcome State Fault Refusal := rotateImmediate .dword .v128 o s

/-- Row 4, `EVEX.128.66.0F.W1 72 /1 ib` (40_rotate_left.md R92). -/
def execVprolq128 (o : ImmForm) (s : State) : Outcome State Fault Refusal := rotateImmediate .qword .v128 o s

/-- Row 6, `EVEX.256.66.0F.W0 72 /1 ib` (40_rotate_left.md R94). -/
def execVprold256 (o : ImmForm) (s : State) : Outcome State Fault Refusal := rotateImmediate .dword .v256 o s

/-- Row 8, `EVEX.256.66.0F.W1 72 /1 ib` (40_rotate_left.md R96). -/
def execVprolq256 (o : ImmForm) (s : State) : Outcome State Fault Refusal := rotateImmediate .qword .v256 o s

/-- Row 10, `EVEX.512.66.0F.W0 72 /1 ib` (40_rotate_left.md R98). -/
def execVprold512 (o : ImmForm) (s : State) : Outcome State Fault Refusal := rotateImmediate .dword .v512 o s

/-- Row 12, `EVEX.512.66.0F.W1 72 /1 ib` (40_rotate_left.md R100). -/
def execVprolq512 (o : ImmForm) (s : State) : Outcome State Fault Refusal := rotateImmediate .qword .v512 o s

end Sys2Proof.Machine
end

