-- ==== Sys2Proof/Machine/RotateVariable.lean ====
section
/-! DEFINITION. The variable forms: VPROLVD (40_rotate_left.md R86) and VPROLVQ (R88), one meaning for each row. -/

namespace Sys2Proof.Machine

open Sys2Proof Host

/-- The rule of 40_rotate_left.md R86 (`dword`) and R88 (`qword`): check, read the count operand, rotate every enabled
element of the source register left by its own count, write the destination once, advance the pc. -/
def rotateVariable (e : ElemSize) (vl : VL) (o : VarForm) (s : State) : Outcome State Fault Refusal :=
  andThen (checkEnabled s vl) fun _ =>
    andThen (s.readRM o.prefixes o.ilen e vl o.mask o.count) fun v =>
      .next (s.complete o.ilen o.dest
        (s.maskedResult e vl o.mask o.dest fun j =>
          rol (lane e.bits (s.readZmm o.src) j) (rmLane e o.count v j).toNat))

/-- Row 1, `EVEX.128.66.0F38.W0 15 /r` (40_rotate_left.md R89). -/
def execVprolvd128 (o : VarForm) (s : State) : Outcome State Fault Refusal := rotateVariable .dword .v128 o s

/-- Row 3, `EVEX.128.66.0F38.W1 15 /r` (40_rotate_left.md R91). -/
def execVprolvq128 (o : VarForm) (s : State) : Outcome State Fault Refusal := rotateVariable .qword .v128 o s

/-- Row 5, `EVEX.256.66.0F38.W0 15 /r` (40_rotate_left.md R93). -/
def execVprolvd256 (o : VarForm) (s : State) : Outcome State Fault Refusal := rotateVariable .dword .v256 o s

/-- Row 7, `EVEX.256.66.0F38.W1 15 /r` (40_rotate_left.md R95). -/
def execVprolvq256 (o : VarForm) (s : State) : Outcome State Fault Refusal := rotateVariable .qword .v256 o s

/-- Row 9, `EVEX.512.66.0F38.W0 15 /r` (40_rotate_left.md R97). -/
def execVprolvd512 (o : VarForm) (s : State) : Outcome State Fault Refusal := rotateVariable .dword .v512 o s

/-- Row 11, `EVEX.512.66.0F38.W1 15 /r` (40_rotate_left.md R99). -/
def execVprolvq512 (o : VarForm) (s : State) : Outcome State Fault Refusal := rotateVariable .qword .v512 o s

end Sys2Proof.Machine
end

