-- ==== Sys2Proof/Machine/Dispatch.lean ====
section
/-! DEFINITION. The meaning of every instruction: one arm for each row of spec/opcode_table.json (30_encoding.md R63). -/

namespace Sys2Proof.Machine

open Sys2Proof

def exec (i : Instr) (s : State) : Host.Outcome State Fault Refusal :=
  match i with
  | .vprolvd128 o => Sys2Proof.Machine.execVprolvd128 o s
  | .vprold128 o => Sys2Proof.Machine.execVprold128 o s
  | .vprolvq128 o => Sys2Proof.Machine.execVprolvq128 o s
  | .vprolq128 o => Sys2Proof.Machine.execVprolq128 o s
  | .vprolvd256 o => Sys2Proof.Machine.execVprolvd256 o s
  | .vprold256 o => Sys2Proof.Machine.execVprold256 o s
  | .vprolvq256 o => Sys2Proof.Machine.execVprolvq256 o s
  | .vprolq256 o => Sys2Proof.Machine.execVprolq256 o s
  | .vprolvd512 o => Sys2Proof.Machine.execVprolvd512 o s
  | .vprold512 o => Sys2Proof.Machine.execVprold512 o s
  | .vprolvq512 o => Sys2Proof.Machine.execVprolvq512 o s
  | .vprolq512 o => Sys2Proof.Machine.execVprolq512 o s

end Sys2Proof.Machine
end

