-- ==== Sys2Proof/Machine/Fetch.lean ====
section
/-! DEFINITION. Fetching an instruction's bytes (20_memory.md R46), the outcome of bytes that are no instruction
(30_encoding.md R70), and placing an instruction where it is fetched. -/

namespace Sys2Proof.Machine

open Sys2Proof Host

/-- At most `n` bytes from address `a` on, up to the first one that cannot be fetched (20_memory.md R46). -/
def State.fetchFrom (s : State) : Nat → Nat → List Byte
  | _, 0 => []
  | a, n + 1 => if s.fetchable a then s.mem.read a :: s.fetchFrom (a + 1) n else []

/-- The bytes at pc that the decoder may need (20_memory.md R46; 30_encoding.md R65). -/
def State.fetchBytes (s : State) : List Byte := s.fetchFrom s.pc.toNat Config.maxFetch

/-- The outcome of bytes that are #UD by their encoding or by the mode (30_encoding.md R67 U-c to U-e, U-g, U-h). -/
def stopInvalid : Outcome State Fault Refusal := raise .invalidOpcode

/-- The outcome of unused extension bits: the #UD conditions of the state come first (30_encoding.md R70 steps 9, 10). -/
def stopUnusedBits (s : State) (vl : VL) (why : DecodeRefusal) : Outcome State Fault Refusal :=
  if s.undefinedOpcode vl then raise .invalidOpcode else .refused (.undecodable why)

/-- The outcome of an instruction a byte of which cannot be fetched (20_memory.md R46; D8). -/
def stopTruncated : Outcome State Fault Refusal := .refused .notFetchable

/-- The outcome of bytes that are out of scope or that the decoder refuses (30_encoding.md R69). -/
def stopRefused (why : DecodeRefusal) : Outcome State Fault Refusal := .refused (.undecodable why)

/-- The state with an opcode-table word, and zero bytes after it, stored at pc (log entry 10). -/
def placeTableWord (s : State) (nbits w : Nat) : State :=
  s.setMem (s.mem.writeBytes s.pc.toNat (padded (tableBytes nbits w)))

end Sys2Proof.Machine
end

