-- ==== Sys2Proof/Machine/Step.lean ====
section
/-! DEFINITION. One step: fetch, decode, execute (10_state.md R13). -/

namespace Sys2Proof.Machine

open Sys2Proof

/-- One step of the machine: the bytes at pc are decoded in the current mode and the instruction runs; bytes that are
none end in the fault or refusal of 30_encoding.md R70. -/
def step (s : State) : Host.Outcome State Fault Refusal :=
  match decode s.mode s.fetchBytes with
  | .ok i => exec i s
  | .invalidOpcode => stopInvalid
  | .unusedBits vl why => stopUnusedBits s vl why
  | .truncated => stopTruncated
  | .refused why => stopRefused why

/-- The state with an opcode-table word stored where the next instruction is fetched (log entry 10). -/
def State.withFetchWord (s : State) (nbits w : Nat) : State := placeTableWord s nbits w

end Sys2Proof.Machine
end

