-- ==== Sys2Proof/Machine/Intrinsics.lean ====
section
/-! DEFINITION. The compiler intrinsics of the source (30_encoding.md R75, R76): their names, the instruction each compiles
to, and the value each has of its arguments. They are a compiler interface; no step uses them. -/

namespace Sys2Proof.Machine

open Sys2Proof

/-- The three forms of an intrinsic: plain, `_mask_` and `_maskz_` (30_encoding.md R76). -/
inductive IntrinsicForm where
  | plain
  | mask
  | maskz
deriving DecidableEq, Repr

/-- One prototype of 30_encoding.md R75. -/
structure Intrinsic where
  /-- The result type `__m128i`, `__m256i` or `__m512i`. -/
  vl : VL
  /-- `epi32` or `epi64`. -/
  elem : ElemSize
  /-- `rolv`, with a vector of counts, or `rol`, with an immediate. -/
  counted : Bool
  form : IntrinsicForm
deriving DecidableEq, Repr

/-- The name of an intrinsic (30_encoding.md R75). -/
def Intrinsic.name (f : Intrinsic) : String :=
  (match f.vl with
    | .v128 => "_mm"
    | .v256 => "_mm256"
    | .v512 => "_mm512") ++
  (match f.form with
    | .plain => ""
    | .mask => "_mask"
    | .maskz => "_maskz") ++
  (if f.counted then "_rolv" else "_rol") ++
  (match f.elem with
    | .dword => "_epi32"
    | .qword => "_epi64")

/-- The width of the mask argument: `__mmask16` for the 16-element forms, `__mmask8` for all others (30_encoding.md R76). -/
def Intrinsic.maskBits (f : Intrinsic) : Nat := if laneCount f.elem f.vl = 16 then 16 else 8

/-- The masking of the instruction an intrinsic compiles to, with writemask `k` (30_encoding.md R76). -/
def Intrinsic.masking (f : Intrinsic) (k : KReg) : Masking :=
  match f.form with
  | .plain => .unmasked
  | .mask => .merging k
  | .maskz => .zeroing k

/-- The instruction an intrinsic compiles to, with its arguments in registers (30_encoding.md R75, R76): result and old
value `d`, mask `k`, data `src`, and counts `cnt` or the immediate `imm`. The prototype's `int imm` is taken as the `imm8` byte:
DESIGN CHOICE, log entry 20. -/
def Intrinsic.instr (f : Intrinsic) (d : VReg) (k : KReg) (src cnt : VReg) (imm : BitVec 8) : Instr :=
  if f.counted then .ofVar f.elem f.vl ⟨.noPrefix, d, f.masking k, src, .reg cnt⟩
  else .ofImm f.elem f.vl ⟨.noPrefix, d, f.masking k, .reg src, imm⟩

/-- Does an intrinsic compute element `j` under the mask argument `k` (30_encoding.md R76)? -/
def Intrinsic.computes (f : Intrinsic) (k : Nat) (j : Nat) : Bool :=
  match f.form with
  | .plain => true
  | .mask => k.testBit j
  | .maskz => k.testBit j

/-- The value of an intrinsic: `a` the argument whose elements a `_mask_` form keeps, `k` the mask argument, `b` the data,
`cnt` the vector of counts, `imm` the immediate (30_encoding.md R76). The prototype's `int imm` is taken as 8 bits, and a vector
argument of any type is held in a full vector: DESIGN CHOICE, log entry 20. -/
def Intrinsic.value (f : Intrinsic) (a : Vec) (k : Nat) (b cnt : Vec) (imm : BitVec 8) : Vec :=
  packLanes f.elem.bits
    (fun j =>
      if f.computes k j then
        rol (lane f.elem.bits b j) (if f.counted then (lane f.elem.bits cnt j).toNat else imm.toNat)
      else
        match f.form with
        | .maskz => 0
        | _ => lane f.elem.bits a j)
    (laneCount f.elem f.vl)

end Sys2Proof.Machine
end

