-- ==== Sys2Proof/Safety.lean ====
section
/-! DEFINITION. The terms in which claims about the machine are made: when an instruction executes, what its operands
are, what a completed step changes, the invariant of the state, and the source's pseudocode as it is printed. -/

namespace Sys2Proof

/-! ## What an instruction names -/

/-- The vector length of the row (30_encoding.md R63). -/
def Instr.vl : Instr → VL
  | .vprolvd128 _ => .v128
  | .vprold128 _ => .v128
  | .vprolvq128 _ => .v128
  | .vprolq128 _ => .v128
  | .vprolvd256 _ => .v256
  | .vprold256 _ => .v256
  | .vprolvq256 _ => .v256
  | .vprolq256 _ => .v256
  | .vprolvd512 _ => .v512
  | .vprold512 _ => .v512
  | .vprolvq512 _ => .v512
  | .vprolq512 _ => .v512

/-- The element width of the row (30_encoding.md R63). -/
def Instr.elem : Instr → ElemSize
  | .vprolvd128 _ => .dword
  | .vprold128 _ => .dword
  | .vprolvq128 _ => .qword
  | .vprolq128 _ => .qword
  | .vprolvd256 _ => .dword
  | .vprold256 _ => .dword
  | .vprolvq256 _ => .qword
  | .vprolq256 _ => .qword
  | .vprolvd512 _ => .dword
  | .vprold512 _ => .dword
  | .vprolvq512 _ => .qword
  | .vprolq512 _ => .qword

/-- The operands that every form has: legacy prefixes, destination, masking and the `ModRM:r/m` operand. -/
structure CommonOperands where
  prefixes : Prefixes
  dest : VReg
  mask : Masking
  rm : RM
deriving DecidableEq, Repr

/-- The common operands of an immediate form. -/
def ImmForm.operands (o : ImmForm) : CommonOperands := ⟨o.prefixes, o.dest, o.mask, o.src⟩

/-- The common operands of a variable form. -/
def VarForm.operands (o : VarForm) : CommonOperands := ⟨o.prefixes, o.dest, o.mask, o.count⟩

/-- The common operands of an instruction. -/
def Instr.operands : Instr → CommonOperands
  | .vprolvd128 o => o.operands
  | .vprold128 o => o.operands
  | .vprolvq128 o => o.operands
  | .vprolq128 o => o.operands
  | .vprolvd256 o => o.operands
  | .vprold256 o => o.operands
  | .vprolvq256 o => o.operands
  | .vprolq256 o => o.operands
  | .vprolvd512 o => o.operands
  | .vprold512 o => o.operands
  | .vprolvq512 o => o.operands
  | .vprolq512 o => o.operands

namespace Machine

/-! ## When an instruction executes -/

/-- The launch premises under which the rules of 40_rotate_left.md hold: the mode, the enabling flags and the feature
flags of the vector length (92_eei_decisions.md D18; 70_reset_and_hazards.md R126). -/
abbrev Runnable (s : State) (vl : VL) : Prop :=
  (s.mode = .mode64 ∨ s.mode = .mode32) ∧ s.osEnabled = true ∧ s.hasFeatures vl = true ∧ s.ts = false

/-- The linear address of a memory operand of an instruction of `len` bytes (30_encoding.md R59). -/
def operandAddress (s : State) (p : Prefixes) (len : Nat) (e : ElemSize) (vl : VL) (a : Addr) (bcast : Bool) : Nat :=
  s.linearAddress p len (operandBytes e vl bcast) a

/-- The environment answers `ok` about a byte read through a segment, and the byte is ordinary memory (20_memory.md R35,
R38). -/
abbrev ByteReadable (s : State) (g : Seg) (a : Nat) : Prop :=
  s.isDevice a = false ∧ s.segmentFaultAt g a = none ∧ s.pageFaultAt g a = none

/-- The operand can be read: a register always; memory when it does not wrap (D11), is aligned or AlignCheckOn is off (D4),
and every byte that FaultSuppression does not exempt is readable (20_memory.md R35, R36). -/
def OperandReadable (s : State) (p : Prefixes) (len : Nat) (e : ElemSize) (vl : VL) (m : Masking) : RM → Prop
  | .reg _ => True
  | .mem a bcast =>
    operandAddress s p len e vl a bcast + operandBytes e vl bcast ≤ 2 ^ s.addressWidth ∧
    (s.alignCheckOn = true → operandAddress s p len e vl a bcast % operandBytes e vl bcast = 0) ∧
    ∀ i < operandBytes e vl bcast, s.accesses e vl m bcast i = true →
      ByteReadable s (effectiveSegment p a) (operandAddress s p len e vl a bcast + i)

/-! ## What stands at pc -/

/-- Memory holds the bytes `bs` at ascending addresses from pc on, and each of them can be fetched (20_memory.md R46). -/
abbrev BytesAtPc (s : State) (bs : List Byte) : Prop :=
  ∀ k (h : k < bs.length), s.fetchable (s.pc.toNat + k) = true ∧ s.mem.read (s.pc.toNat + k) = bs[k]

/-! ## What an operand is -/

/-- `n` bytes of memory at `a` as a number, the byte at the lowest address least significant (20_memory.md R31). -/
def leNat (m : Memory) (a : Nat) : Nat → Nat
  | 0 => 0
  | n + 1 => (m.read a).toNat + 256 * leNat m (a + 1) n

/-- Element `j` of the `ModRM:r/m` operand: of a register; of memory, at `LA + j*W/8`; of a broadcast operand, at `LA`
for every `j` (20_memory.md R32, R33; 40_rotate_left.md R83). -/
def operandElement (s : State) (p : Prefixes) (len : Nat) (e : ElemSize) (vl : VL) (j : Nat) : RM → BitVec e.bits
  | .reg r => lane e.bits (s.readZmm r) j
  | .mem a bcast =>
    BitVec.ofNat e.bits
      (leNat s.mem (operandAddress s p len e vl a bcast + if bcast then 0 else j * (e.bits / 8)) (e.bits / 8))

/-! ## What a completed step does -/

/-- The rule of write-masking for one element (40_rotate_left.md R81). -/
def ElementRule (s : State) (m : Masking) (j : Nat) {w : Nat} (result rotated old : BitVec w) : Prop :=
  match m with
  | .unmasked => result = rotated
  | .merging k => result = if (s.readK k).getLsbD j then rotated else old
  | .zeroing k => result = if (s.readK k).getLsbD j then rotated else 0

/-- A step from `s` to `t` changes the vector register `d` and the pc, and nothing else: no other vector register, no
opmask, general or segment register, no flag, status or control register, not the environment, and no byte of memory
(10_state.md R26; D10). -/
structure OnlyWrites (d : VReg) (s t : State) : Prop where
  zmm : ∀ r, r ≠ d → t.readZmm r = s.readZmm r
  k : t.k = s.k
  gpr : t.gpr = s.gpr
  segBases : t.segBases = s.segBases
  rflags : t.rflags = s.rflags
  mxcsr : t.mxcsr = s.mxcsr
  x87Status : t.x87Status = s.x87Status
  cr0 : t.cr0 = s.cr0
  cr2 : t.cr2 = s.cr2
  cr4 : t.cr4 = s.cr4
  xcr0 : t.xcr0 = s.xcr0
  efer : t.efer = s.efer
  csL : t.csL = s.csL
  csD : t.csD = s.csD
  cpl : t.cpl = s.cpl
  hasAvx512f : t.hasAvx512f = s.hasAvx512f
  hasAvx512vl : t.hasAvx512vl = s.hasAvx512vl
  env : t.env = s.env
  mem : t.mem = s.mem
  bytes : ∀ a, t.mem.read a = s.mem.read a

/-- What a rotate of `len` bytes with destination `d` gives: every element by the masking rule (40_rotate_left.md R81),
zero at and above the vector length (R82), the next pc (R102), and nothing else (10_state.md R26). -/
def Rotated (s t : State) (len : Nat) (e : ElemSize) (vl : VL) (m : Masking) (d : VReg)
    (rotated : Nat → BitVec e.bits) : Prop :=
  (∀ j < laneCount e vl,
    ElementRule s m j (lane e.bits (t.readZmm d) j) (rotated j) (lane e.bits (s.readZmm d) j)) ∧
  (∀ i, vl.bits ≤ i → (t.readZmm d).getLsbD i = false) ∧
  t.pc.toNat = (s.pc.toNat + len) % 2 ^ s.addressWidth ∧
  OnlyWrites d s t

/-- The invariant of the state: memory in canonical form, and the pc inside the address space of the mode
(10_state.md R18, R24). -/
def Inv (s : State) : Prop := s.mem.wf = true ∧ s.pc.toNat < 2 ^ s.addressWidth

/-- The number of 1 bits of a bit string (40_rotate_left.md R101). -/
def onesCount {w : Nat} (x : BitVec w) : Nat := (List.range w).countP fun p => x.getLsbD p

/-! ## The source's pseudocode, run in place (40_rotate_left.md R84 to R88) -/

/-- `DEST[i+w-1:i] ← x` with `i = j*w`: the other bits of the register stay. -/
def setLane (w : Nat) (v : Vec) (j : Nat) (x : BitVec w) : Vec :=
  (v &&& ~~~ ((BitVec.allOnes w).setWidth 512 <<< (j * w))) ||| (x.setWidth 512 <<< (j * w))

/-- The body of the loop for element `j`, run on the register file as it is then (40_rotate_left.md R81). -/
def pseudoElement (e : ElemSize) (m : Masking) (d : VReg) (j : Nat) (rotated : BitVec e.bits) (t : State) : State :=
  if t.enabled m j then t.writeZmm d (setLane e.bits (t.readZmm d) j rotated)
  else
    match m with
    | .zeroing _ => t.writeZmm d (setLane e.bits (t.readZmm d) j 0)
    | _ => t

/-- `FOR j←0 TO n-1 ... ENDFOR` (00_scope.md R10). -/
def pseudoLoop (body : Nat → State → State) : Nat → State → State
  | 0, t => t
  | n + 1, t => body n (pseudoLoop body n t)

/-- `DEST[MAXVL-1:VL] ← 0` (40_rotate_left.md R82). -/
def pseudoUpper (vl : VL) (d : VReg) (t : State) : State :=
  t.writeZmm d (t.readZmm d &&& (BitVec.allOnes 512 >>> (512 - vl.bits)))

/-- Element `j` of the `ModRM:r/m` operand as the loop reads it: a register from the file as it is then, memory from the
bytes `v` (40_rotate_left.md R83). -/
def pseudoOperand (e : ElemSize) (rm : RM) (v : Vec) (j : Nat) (t : State) : BitVec e.bits :=
  match rm with
  | .reg r => lane e.bits (t.readZmm r) j
  | .mem _ bcast => lane e.bits v (if bcast then 0 else j)

/-- The source's body of VPROLD and VPROLQ (40_rotate_left.md R85, R87). -/
def pseudoImmediate (e : ElemSize) (vl : VL) (o : ImmForm) (v : Vec) (s : State) : State :=
  pseudoUpper vl o.dest
    (pseudoLoop
      (fun j t => pseudoElement e o.mask o.dest j (rol (pseudoOperand e o.src v j t) o.imm.toNat) t)
      (laneCount e vl) s)

/-- The source's body of VPROLVD and VPROLVQ (40_rotate_left.md R86, R88). -/
def pseudoVariable (e : ElemSize) (vl : VL) (o : VarForm) (v : Vec) (s : State) : State :=
  pseudoUpper vl o.dest
    (pseudoLoop
      (fun j t =>
        pseudoElement e o.mask o.dest j
          (rol (lane e.bits (t.readZmm o.src) j) (pseudoOperand e o.count v j t).toNat) t)
      (laneCount e vl) s)

end Machine

end Sys2Proof
end

