-- ==== Sys2Proof/Certificates/Slice0/Obligations.lean ====
section
/-! DEFINITION. The statements for the provers. Each docstring names the rule of spec/ it formalises, or the log entry of
the model's choice it rests on. -/

open Sys2Proof Sys2Proof.Machine Host

/-! ## The rotation of one element -/

/-- R77: `ROL32` is the helper's formula on unbounded integers, moves bit `p` to bit `(p + k) mod 32`, and rotating by 0
gives the value back. -/
def Obligations.Rol32FollowsTheHelper : Prop :=
  (∀ (x : BitVec 32) (c : Nat),
    (rol x c).toNat = ((x.toNat <<< (c % 32)) ||| (x.toNat >>> (32 - c % 32))) % 2 ^ 32 ∧
    (∀ p < 32, (rol x c).getLsbD ((p + c % 32) % 32) = x.getLsbD p) ∧
    rol x 0 = x) ∧
  rol 0x12345678#32 8 = 0x34567812#32 ∧ rol 0x80000000#32 1 = 0x00000001#32

/-- R78: `ROL64` is the helper's formula on unbounded integers, moves bit `p` to bit `(p + k) mod 64`, and rotating by 0
gives the value back. -/
def Obligations.Rol64FollowsTheHelper : Prop :=
  (∀ (x : BitVec 64) (c : Nat),
    (rol x c).toNat = ((x.toNat <<< (c % 64)) ||| (x.toNat >>> (64 - c % 64))) % 2 ^ 64 ∧
    (∀ p < 64, (rol x c).getLsbD ((p + c % 64) % 64) = x.getLsbD p) ∧
    rol x 0 = x) ∧
  rol 0x0123456789ABCDEF#64 4 = 0x123456789ABCDEF0#64 ∧ rol 0x8000000000000000#64 1 = 0x0000000000000001#64

/-- R80: a count is used modulo the element width, so only its low 5 (doubleword) or 6 (quadword) bits matter, for an
immediate and for a count element. -/
def Obligations.CountsAreReducedToTheirLowBits : Prop :=
  (∀ (x : BitVec 32) (c : BitVec 32) (imm : BitVec 8),
    c.toNat % 32 = (c.extractLsb' 0 5).toNat ∧ rol x c.toNat = rol x (c.extractLsb' 0 5).toNat ∧
    imm.toNat % 32 = (imm.extractLsb' 0 5).toNat ∧ rol x imm.toNat = rol x (imm.extractLsb' 0 5).toNat ∧
    rol x 255 = rol x 31 ∧ rol x (0x80000000#32).toNat = x) ∧
  (∀ (x : BitVec 64) (c : BitVec 64) (imm : BitVec 8),
    c.toNat % 64 = (c.extractLsb' 0 6).toNat ∧ rol x c.toNat = rol x (c.extractLsb' 0 6).toNat ∧
    imm.toNat % 64 = (imm.extractLsb' 0 6).toNat ∧ rol x imm.toNat = rol x (imm.extractLsb' 0 6).toNat ∧
    rol x 255 = rol x 63 ∧ rol x (0x0000000100000001#64).toNat = rol x 1)

/-- R101: the laws of the rotation, for both element widths. -/
def Obligations.RotationLaws : Prop :=
  (∀ (e : ElemSize) (x y : BitVec e.bits) (a b : Nat),
    rol x a = rol x (a % e.bits) ∧
    rol x 0 = x ∧
    rol (rol x a) b = rol x (a + b) ∧
    rol (rol x a) (e.bits - a % e.bits) = x ∧
    (∀ p < e.bits, (rol x a).getLsbD ((p + a) % e.bits) = x.getLsbD p) ∧
    onesCount (rol x a) = onesCount x ∧
    rol (0 : BitVec e.bits) a = 0 ∧
    rol (BitVec.allOnes e.bits) a = BitVec.allOnes e.bits ∧
    rol (x ||| y) a = rol x a ||| rol y a ∧
    rol (x &&& y) a = rol x a &&& rol y a ∧
    rol (x ^^^ y) a = rol x a ^^^ rol y a ∧
    rol (~~~ x) a = ~~~ rol x a) ∧
  (∀ (e : ElemSize) (a : Nat), Function.Bijective fun x : BitVec e.bits => rol x a) ∧
  (∀ x : BitVec 64, rol x 32 = x.extractLsb' 0 32 ++ x.extractLsb' 32 32) ∧
  (∀ x : BitVec 32, (rol x 1).toNat = 2 * x.toNat % 2 ^ 32 + (x.getLsbD 31).toNat)

/-! ## Operands -/

/-- R32: the elements of a full memory operand, in bytes least significant first, and the doubleword view of a quadword
operand. -/
def Obligations.MemoryElementsAreLittleEndian : Prop :=
  (∀ (s : State) (g : Seg) (la n : Nat) (v : Vec), n ≤ 64 → memRead s g la n (fun _ => true) = .next v →
    v.toNat = leNat s.mem la n ∧
    ∀ (e : ElemSize) (j : Nat), (j + 1) * (e.bits / 8) ≤ n →
      lane e.bits v j = BitVec.ofNat e.bits (leNat s.mem (la + j * (e.bits / 8)) (e.bits / 8))) ∧
  (∀ (v : Vec) (j : Nat), j < 8 →
    lane 32 v (2 * j) = (lane 64 v j).extractLsb' 0 32 ∧ lane 32 v (2 * j + 1) = (lane 64 v j).extractLsb' 32 32)

/-- R33: a broadcast operand is one element at `LA`, used for every element index, and no byte beyond it is read. -/
def Obligations.BroadcastReadsOneElement : Prop :=
  ∀ (s : State) (p : Prefixes) (len : Nat) (e : ElemSize) (vl : VL) (m : Masking) (a : Addr) (v : Vec),
    (s.env.faultSuppression = false ∨ ∃ j < laneCount e vl, s.enabled m j = true) →
    s.readRM p len e vl m (.mem a true) = .next v →
    (∀ j, rmLane e (.mem a true) v j =
      BitVec.ofNat e.bits (leNat s.mem (operandAddress s p len e vl a true) (e.bits / 8))) ∧
    ∀ mem' : Memory,
      (∀ k < e.bits / 8, mem'.read (operandAddress s p len e vl a true + k) =
        s.mem.read (operandAddress s p len e vl a true + k)) →
      (s.setMem mem').readRM p len e vl m (.mem a true) = .next v

/-- R60: `N`, and the displacement: one byte scaled by `N`, four bytes not scaled, both signed. -/
def Obligations.CompressedDisplacementIsScaledByN : Prop :=
  (∀ (e : ElemSize) (vl : VL), operandBytes e vl false = vl.bits / 8) ∧
  (∀ vl : VL, operandBytes .dword vl true = 4 ∧ operandBytes .qword vl true = 8) ∧
  (∀ (e : ElemSize) (vl : VL) (bcast : Bool) (v : BitVec 8) (w : BitVec 32),
    (dispValue (operandBytes e vl bcast) (.d8 v)).toInt = v.toInt * (operandBytes e vl bcast : Int) ∧
    (dispValue (operandBytes e vl bcast) (.d32 w)).toInt = w.toInt)

/-- R57: the effective address in `Mode64`, computed on exact integers and reduced to the address size. -/
def Obligations.EffectiveAddressInMode64 : Prop :=
  ∀ (s : State) (p : Prefixes) (len n : Nat), s.mode = .mode64 →
    let A := if hasAddressOverride p then 32 else 64
    let x := fun r : GReg => (((s.gpr[r.toNat]'r.isLt).toNat % 2 ^ A : Nat) : Int)
    let disp := fun d : Disp => match d with
      | .noDisp => (0 : Int)
      | .d8 v => v.toInt * (n : Int)
      | .d32 v => v.toInt
    let part := fun r : Option GReg => match r with
      | none => (0 : Int)
      | some r => x r
    (∀ v, ((s.effectiveAddress p len n (.disp32 v)).toNat : Int) =
      ((((s.pc.toNat + len) % 2 ^ 64 : Nat) : Int) + v.toInt) % 2 ^ A) ∧
    (∀ b d, ((s.effectiveAddress p len n (.base b d)).toNat : Int) = (x b + disp d) % 2 ^ A) ∧
    (∀ ob oi scale d, ((s.effectiveAddress p len n (.sib ob oi scale d)).toNat : Int) =
      (part ob + part oi * 2 ^ scale.toNat + disp d) % 2 ^ A)

/-- R58: the effective address in `Mode32`: 32 bits, and the form without a base is absolute. -/
def Obligations.EffectiveAddressInMode32 : Prop :=
  ∀ (s : State) (p : Prefixes) (len n : Nat), s.mode = .mode32 →
    let x := fun r : GReg => (((s.gpr[r.toNat]'r.isLt).toNat % 2 ^ 32 : Nat) : Int)
    let disp := fun d : Disp => match d with
      | .noDisp => (0 : Int)
      | .d8 v => v.toInt * (n : Int)
      | .d32 v => v.toInt
    let part := fun r : Option GReg => match r with
      | none => (0 : Int)
      | some r => x r
    (∀ v, (s.effectiveAddress p len n (.disp32 v)).toNat = v.toNat) ∧
    (∀ b d, ((s.effectiveAddress p len n (.base b d)).toNat : Int) = (x b + disp d) % 2 ^ 32) ∧
    (∀ ob oi scale d, ((s.effectiveAddress p len n (.sib ob oi scale d)).toNat : Int) =
      (part ob + part oi * 2 ^ scale.toNat + disp d) % 2 ^ 32)

/-- R59: the segment of a memory operand, its base, and the linear address. -/
def Obligations.LinearAddressAddsTheSegmentBase : Prop :=
  (∀ (g : Seg) (a : Addr),
    effectiveSegment (.seg g) a = g ∧ effectiveSegment (.segAddr g) a = g ∧ effectiveSegment (.addrSeg g) a = g) ∧
  (∀ p : Prefixes, segmentOverride p = none →
    (∀ v, effectiveSegment p (.disp32 v) = .ds) ∧
    (∀ b d, effectiveSegment p (.base b d) = if b = 4 ∨ b = 5 then .ss else .ds) ∧
    (∀ b oi scale d, effectiveSegment p (.sib (some b) oi scale d) = if b = 4 ∨ b = 5 then .ss else .ds) ∧
    (∀ oi scale d, effectiveSegment p (.sib none oi scale d) = .ds)) ∧
  (∀ s : State, s.mode = .mode64 →
    s.segBase .es = 0 ∧ s.segBase .cs = 0 ∧ s.segBase .ss = 0 ∧ s.segBase .ds = 0 ∧
    s.segBase .fs = s.segBases.fs ∧ s.segBase .gs = s.segBases.gs) ∧
  (∀ (s : State) (g : Seg), s.mode = .mode32 → s.segBase g = s.segBases.get g) ∧
  (∀ (s : State) (p : Prefixes) (len n : Nat) (a : Addr), s.mode = .mode64 →
    s.linearAddress p len n a =
      ((s.segBase (effectiveSegment p a)).toNat + (s.effectiveAddress p len n a).toNat) % 2 ^ 64) ∧
  (∀ (s : State) (p : Prefixes) (len n : Nat) (a : Addr), s.mode = .mode32 →
    s.linearAddress p len n a =
      ((s.segBase (effectiveSegment p a)).toNat + (s.effectiveAddress p len n a).toNat) % 2 ^ 32)

/-! ## What the instructions do -/

/-- R85, with R81 to R83, R26, R102 and the rows R90, R94, R98: VPROLD at every vector length, for a register, a full memory
and a broadcast source, with every masking. -/
def Obligations.VproldRotatesDoublewordsByTheImmediate : Prop :=
  ∀ (o : ImmForm) (s : State),
    (Runnable s .v128 → OperandReadable s o.prefixes o.ilen .dword .v128 o.mask o.src →
      ∃ t, exec (.vprold128 o) s = .next t ∧
        Rotated s t o.ilen .dword .v128 o.mask o.dest fun j =>
          rol (operandElement s o.prefixes o.ilen .dword .v128 j o.src) o.imm.toNat) ∧
    (Runnable s .v256 → OperandReadable s o.prefixes o.ilen .dword .v256 o.mask o.src →
      ∃ t, exec (.vprold256 o) s = .next t ∧
        Rotated s t o.ilen .dword .v256 o.mask o.dest fun j =>
          rol (operandElement s o.prefixes o.ilen .dword .v256 j o.src) o.imm.toNat) ∧
    (Runnable s .v512 → OperandReadable s o.prefixes o.ilen .dword .v512 o.mask o.src →
      ∃ t, exec (.vprold512 o) s = .next t ∧
        Rotated s t o.ilen .dword .v512 o.mask o.dest fun j =>
          rol (operandElement s o.prefixes o.ilen .dword .v512 j o.src) o.imm.toNat)

/-- R87, with R81 to R83, R26, R102 and the rows R92, R96, R100: VPROLQ at every vector length, for a register, a full
memory and a broadcast source, with every masking. -/
def Obligations.VprolqRotatesQuadwordsByTheImmediate : Prop :=
  ∀ (o : ImmForm) (s : State),
    (Runnable s .v128 → OperandReadable s o.prefixes o.ilen .qword .v128 o.mask o.src →
      ∃ t, exec (.vprolq128 o) s = .next t ∧
        Rotated s t o.ilen .qword .v128 o.mask o.dest fun j =>
          rol (operandElement s o.prefixes o.ilen .qword .v128 j o.src) o.imm.toNat) ∧
    (Runnable s .v256 → OperandReadable s o.prefixes o.ilen .qword .v256 o.mask o.src →
      ∃ t, exec (.vprolq256 o) s = .next t ∧
        Rotated s t o.ilen .qword .v256 o.mask o.dest fun j =>
          rol (operandElement s o.prefixes o.ilen .qword .v256 j o.src) o.imm.toNat) ∧
    (Runnable s .v512 → OperandReadable s o.prefixes o.ilen .qword .v512 o.mask o.src →
      ∃ t, exec (.vprolq512 o) s = .next t ∧
        Rotated s t o.ilen .qword .v512 o.mask o.dest fun j =>
          rol (operandElement s o.prefixes o.ilen .qword .v512 j o.src) o.imm.toNat)

/-- R86, with R81 to R83, R26, R102 and the rows R89, R93, R97: VPROLVD at every vector length, for a register, a full
memory and a broadcast count, with every masking. -/
def Obligations.VprolvdRotatesDoublewordsByTheirCounts : Prop :=
  ∀ (o : VarForm) (s : State),
    (Runnable s .v128 → OperandReadable s o.prefixes o.ilen .dword .v128 o.mask o.count →
      ∃ t, exec (.vprolvd128 o) s = .next t ∧
        Rotated s t o.ilen .dword .v128 o.mask o.dest fun j =>
          rol (lane 32 (s.readZmm o.src) j) (operandElement s o.prefixes o.ilen .dword .v128 j o.count).toNat) ∧
    (Runnable s .v256 → OperandReadable s o.prefixes o.ilen .dword .v256 o.mask o.count →
      ∃ t, exec (.vprolvd256 o) s = .next t ∧
        Rotated s t o.ilen .dword .v256 o.mask o.dest fun j =>
          rol (lane 32 (s.readZmm o.src) j) (operandElement s o.prefixes o.ilen .dword .v256 j o.count).toNat) ∧
    (Runnable s .v512 → OperandReadable s o.prefixes o.ilen .dword .v512 o.mask o.count →
      ∃ t, exec (.vprolvd512 o) s = .next t ∧
        Rotated s t o.ilen .dword .v512 o.mask o.dest fun j =>
          rol (lane 32 (s.readZmm o.src) j) (operandElement s o.prefixes o.ilen .dword .v512 j o.count).toNat)

/-- R88, with R81 to R83, R26, R102 and the rows R91, R95, R99: VPROLVQ at every vector length, for a register, a full
memory and a broadcast count, with every masking. -/
def Obligations.VprolvqRotatesQuadwordsByTheirCounts : Prop :=
  ∀ (o : VarForm) (s : State),
    (Runnable s .v128 → OperandReadable s o.prefixes o.ilen .qword .v128 o.mask o.count →
      ∃ t, exec (.vprolvq128 o) s = .next t ∧
        Rotated s t o.ilen .qword .v128 o.mask o.dest fun j =>
          rol (lane 64 (s.readZmm o.src) j) (operandElement s o.prefixes o.ilen .qword .v128 j o.count).toNat) ∧
    (Runnable s .v256 → OperandReadable s o.prefixes o.ilen .qword .v256 o.mask o.count →
      ∃ t, exec (.vprolvq256 o) s = .next t ∧
        Rotated s t o.ilen .qword .v256 o.mask o.dest fun j =>
          rol (lane 64 (s.readZmm o.src) j) (operandElement s o.prefixes o.ilen .qword .v256 j o.count).toNat) ∧
    (Runnable s .v512 → OperandReadable s o.prefixes o.ilen .qword .v512 o.mask o.count →
      ∃ t, exec (.vprolvq512 o) s = .next t ∧
        Rotated s t o.ilen .qword .v512 o.mask o.dest fun j =>
          rol (lane 64 (s.readZmm o.src) j) (operandElement s o.prefixes o.ilen .qword .v512 j o.count).toNat)

/-- R84 with R85 and R87: the source's loop, which writes the destination in place while it reads its source, gives the
state of the model's single write, also when source and destination are one register. -/
def Obligations.InPlaceLoopOfImmediateFormsAgrees : Prop :=
  ∀ (e : ElemSize) (vl : VL) (o : ImmForm) (s : State) (v : Vec), checkEnabled s vl = .next () →
    s.readRM o.prefixes o.ilen e vl o.mask o.src = .next v →
    exec (Instr.ofImm e vl o) s = .next ((pseudoImmediate e vl o v s).setPc (s.nextPc o.ilen))

/-- R84 with R86 and R88: the source's loop, which writes the destination in place while it reads its sources, gives the
state of the model's single write, also when the destination is one of the sources or both. -/
def Obligations.InPlaceLoopOfVariableFormsAgrees : Prop :=
  ∀ (e : ElemSize) (vl : VL) (o : VarForm) (s : State) (v : Vec), checkEnabled s vl = .next () →
    s.readRM o.prefixes o.ilen e vl o.mask o.count = .next v →
    exec (Instr.ofVar e vl o) s = .next ((pseudoVariable e vl o v s).setPc (s.nextPc o.ilen))

/-- R81 (its last sentence) and R82: with merging and every mask bit below `KL` clear, the destination keeps its bits below
`VL` and loses those above. -/
def Obligations.AllZeroMergingMaskOnlyZeroesTheUpperBits : Prop :=
  ∀ (i : Instr) (s : State) (k : KReg), i.operands.mask = .merging k →
    (∀ j < laneCount i.elem i.vl, (s.readK k).getLsbD j = false) → Runnable s i.vl →
    OperandReadable s i.operands.prefixes i.ilen i.elem i.vl i.operands.mask i.operands.rm →
    ∃ t, exec i s = .next t ∧
      (∀ b, (t.readZmm i.operands.dest).getLsbD b =
        (decide (b < i.vl.bits) && (s.readZmm i.operands.dest).getLsbD b)) ∧
      OnlyWrites i.operands.dest s t

/-- R85 and R87, their corner case: an unmasked register form whose immediate is a multiple of the element width copies the
source register and zeroes the upper bits. -/
def Obligations.ImmediateMultipleOfTheWidthCopies : Prop :=
  ∀ (e : ElemSize) (vl : VL) (o : ImmForm) (s : State) (r : VReg), o.src = .reg r → o.mask = .unmasked →
    o.imm.toNat % e.bits = 0 → Runnable s vl →
    ∃ t, exec (Instr.ofImm e vl o) s = .next t ∧
      (∀ b, (t.readZmm o.dest).getLsbD b = (decide (b < vl.bits) && (s.readZmm r).getLsbD b)) ∧
      OnlyWrites o.dest s t

/-! ## What the result does not depend on -/

/-- R17: only bits `KL-1:0` of the opmask registers K1 to K7 matter; K0 and the bits above never do, not even for a fault. -/
def Obligations.MaskBitsAboveKLAndK0AreIgnored : Prop :=
  ∀ (i : Instr) (m : Mode) (s : State) (k' : Vector (BitVec Config.kw) 8), i.wf m = true →
    (∀ r : KReg, r ≠ 0 → ∀ j < laneCount i.elem i.vl,
      (k'[r.toNat]'r.isLt).getLsbD j = (s.readK r).getLsbD j) →
    (∀ t, exec i s = .next t → exec i { s with k := k' } = .next { t with k := k' }) ∧
    (∀ f, exec i s = .fault f → exec i { s with k := k' } = .fault f) ∧
    (∀ r, exec i s = .refused r → exec i { s with k := k' } = .refused r)

/-- R16: bits at and above `VL` of the vector registers do not reach the result. -/
def Obligations.RegisterBitsAboveVLAreIgnored : Prop :=
  ∀ (i : Instr) (s t : State) (zmm' : Vector Vec 32),
    (∀ (r : VReg) (b : Nat), b < i.vl.bits → (zmm'[r.toNat]'r.isLt).getLsbD b = (s.readZmm r).getLsbD b) →
    exec i s = .next t →
    ∃ t', exec i { s with zmm := zmm' } = .next t' ∧
      t'.readZmm i.operands.dest = t.readZmm i.operands.dest ∧ t'.pc = t.pc

/-- R21: no status flag, no MXCSR bit and no x87 status influences an instruction, and none is written; CR2 neither. EFLAGS
bits VM and AC stand outside: they decide the mode and alignment checking (R23). -/
def Obligations.FlagsAndStatusDoNotInfluence : Prop :=
  ∀ (i : Instr) (s : State) (rflags' cr2' : Word) (mxcsr' : BitVec 32) (x87' : BitVec 16),
    rflags'.getLsbD 17 = s.rflags.getLsbD 17 → rflags'.getLsbD 18 = s.rflags.getLsbD 18 →
    (∀ t, exec i s = .next t →
      exec i { s with rflags := rflags', cr2 := cr2', mxcsr := mxcsr', x87Status := x87' } =
        .next { t with rflags := rflags', cr2 := cr2', mxcsr := mxcsr', x87Status := x87' }) ∧
    (∀ f, exec i s = .fault f →
      exec i { s with rflags := rflags', cr2 := cr2', mxcsr := mxcsr', x87Status := x87' } = .fault f) ∧
    (∀ r, exec i s = .refused r →
      exec i { s with rflags := rflags', cr2 := cr2', mxcsr := mxcsr', x87Status := x87' } = .refused r)

/-- A completed instruction does the same at every value of CPL, where alignment checking is not asked for. That the
instructions are not privileged is 60_exceptions.md section 6; that an operand readable at one level is readable at every
other is the model's choice, because the environment's answers depend on segment and address alone (log entry 6), and CPL is a
field of the model's own (log entry 4): the spec has the level matter to user or supervisor page access. -/
def Obligations.PrivilegeLevelDoesNotInfluence : Prop :=
  ∀ (i : Instr) (s t : State) (c : BitVec 2), (s.am && s.ac) = false → exec i s = .next t →
    exec i { s with cpl := c } = .next { t with cpl := c }

/-- R36, its last sentence: an instruction that completes without FaultSuppression completes with it, to the same values. -/
def Obligations.FaultSuppressionDoesNotChangeTheResult : Prop :=
  ∀ (i : Instr) (s t : State), s.env.faultSuppression = false → exec i s = .next t →
    exec i { s with env := { s.env with faultSuppression := true } } =
      .next { t with env := { t.env with faultSuppression := true } }

/-! ## Faults and refusals -/

/-- R108 (a), (b), (c), before #NM (R113): the states in which every instruction of the row's vector length is #UD, whatever
its operands and whatever TS holds. -/
def Obligations.UndefinedOpcodeWhereNotEnabled : Prop :=
  ∀ (i : Instr) (s : State), s.mode ≠ .code16 →
    (s.mode = .real ∨ s.mode = .virtual8086 ∨ s.cr4.getLsbD 18 = false ∨
      ¬ (s.xcr0.getLsbD 1 = true ∧ s.xcr0.getLsbD 2 = true) ∨
      ¬ (s.xcr0.getLsbD 5 = true ∧ s.xcr0.getLsbD 6 = true ∧ s.xcr0.getLsbD 7 = true) ∨
      s.hasAvx512f = false ∨ (i.vl ≠ .v512 ∧ s.hasAvx512vl = false)) →
    exec i s = .fault .invalidOpcode

/-- R109: with CR0.TS set every instruction that is not #UD raises #NM, vector 7, no error code, whatever its operands; the
launch premise is TS clear. -/
def Obligations.DeviceNotAvailableWhenTaskSwitched : Prop :=
  (∀ (i : Instr) (s : State), (s.mode = .mode64 ∨ s.mode = .mode32) → s.osEnabled = true →
    s.hasFeatures i.vl = true → s.cr0.getLsbD 3 = true → exec i s = .fault .deviceNotAvailable) ∧
  Fault.deviceNotAvailable.vector = 7 ∧ Fault.deviceNotAvailable.errorCode = none ∧ State.reset.ts = false

/-- R107 (its closing sentence): a register form raises only #UD and #NM; enabled, it always completes. -/
def Obligations.RegisterFormsRaiseOnlyInvalidOpcodeOrDevice : Prop :=
  ∀ (i : Instr) (s : State) (r : VReg), i.operands.rm = .reg r →
    (∀ f, exec i s = .fault f → f = .invalidOpcode ∨ f = .deviceNotAvailable) ∧
    (Runnable s i.vl → ∃ t, exec i s = .next t)

/-- R29 (D11), R34 (D4), R38 (D23), in the order of log entry 8: an operand that wraps, that is not aligned under
AlignCheckOn, or an accessed byte of which is device memory, is refused. -/
def Obligations.MemoryOperandRefusals : Prop :=
  ∀ (i : Instr) (s : State) (a : Addr) (bcast : Bool), i.operands.rm = .mem a bcast → Runnable s i.vl →
    let la := operandAddress s i.operands.prefixes i.ilen i.elem i.vl a bcast
    let n := operandBytes i.elem i.vl bcast
    (2 ^ s.addressWidth < la + n → exec i s = .refused .operandWraps) ∧
    (la + n ≤ 2 ^ s.addressWidth → s.alignCheckOn = true → la % n ≠ 0 → exec i s = .refused .alignmentCheck) ∧
    (la + n ≤ 2 ^ s.addressWidth → (s.alignCheckOn = true → la % n = 0) →
      (∃ k < n, s.accesses i.elem i.vl i.operands.mask bcast k = true ∧ s.isDevice (la + k) = true) →
      exec i s = .refused .deviceMemory)

/-- R35, R110, R113, with log entries 6 (the environment's answers, the canonical check) and 8 (the lowest faulting byte): the fault of a memory operand is the segment-level fault of
its first accessed byte that has one, else the page fault of its first accessed byte that has one. -/
def Obligations.MemoryOperandFaults : Prop :=
  ∀ (i : Instr) (s : State) (a : Addr) (bcast : Bool), i.operands.rm = .mem a bcast → Runnable s i.vl →
    let la := operandAddress s i.operands.prefixes i.ilen i.elem i.vl a bcast
    let n := operandBytes i.elem i.vl bcast
    let g := effectiveSegment i.operands.prefixes a
    let acc := s.accesses i.elem i.vl i.operands.mask bcast
    la + n ≤ 2 ^ s.addressWidth → (s.alignCheckOn = true → la % n = 0) →
    (∀ k < n, acc k = true → s.isDevice (la + k) = false) →
    ∀ k < n, acc k = true →
      (∀ f, s.segmentFaultAt g (la + k) = some f →
        (∀ k' < k, acc k' = true → s.segmentFaultAt g (la + k') = none) → exec i s = .fault f) ∧
      (∀ f, (∀ k' < n, acc k' = true → s.segmentFaultAt g (la + k') = none) →
        s.pageFaultAt g (la + k) = some f →
        (∀ k' < k, acc k' = true → s.pageFaultAt g (la + k') = none) → exec i s = .fault f)

/-- In `Mode64` a memory operand at a non-canonical linear address raises #SS(0) through SS and #GP(0) through any other
segment, with 48 or (five-level paging) 57 significant address bits. The spec leaves the canonical check to MemReadable: that
the model itself makes it for every such operand is log entry 6 (DESIGN CHOICE), and that an ES, CS, SS or DS override changes
the segment that chooses between #SS and #GP is log entry 12 (DEDUCED). -/
def Obligations.NonCanonicalOperandFaults : Prop :=
  ∀ (i : Instr) (s : State) (a : Addr) (bcast : Bool), i.operands.rm = .mem a bcast → Runnable s i.vl →
    s.mode = .mode64 → s.alignCheckOn = false → s.env.faultSuppression = false → s.env.devices = [] →
    let la := operandAddress s i.operands.prefixes i.ilen i.elem i.vl a bcast
    let bits := if s.env.fiveLevelPaging then 56 else 47
    2 ^ bits ≤ la → la < 2 ^ 64 - 2 ^ bits →
    exec i s =
      .fault (if effectiveSegment i.operands.prefixes a = .ss then .stackSegment else .generalProtection)

/-- R107 and R111, with log entries 14 and 18 (the fault carries these values; the width of a code): vector numbers, error codes, the address recorded, the saved instruction pointer, and the bits of the
page-fault code. -/
def Obligations.ExceptionRecords : Prop :=
  (Fault.invalidOpcode.vector = 6 ∧ Fault.deviceNotAvailable.vector = 7 ∧ Fault.stackSegment.vector = 12 ∧
    Fault.generalProtection.vector = 13 ∧ ∀ code a, (Fault.pageFault code a).vector = 14) ∧
  (Fault.invalidOpcode.errorCode = none ∧ Fault.deviceNotAvailable.errorCode = none ∧
    Fault.stackSegment.errorCode = some 0 ∧ Fault.generalProtection.errorCode = some 0 ∧
    ∀ code a, (Fault.pageFault code a).errorCode = some code ∧ (Fault.pageFault code a).faultAddress = some a) ∧
  (∀ (f : Fault) (s : State), f.savedPc s = s.pc) ∧
  (∀ (present user reserved : Bool) (higher : BitVec 27),
    (pageFaultCode present user reserved higher).getLsbD 0 = present ∧
    (pageFaultCode present user reserved higher).getLsbD 1 = false ∧
    (pageFaultCode present user reserved higher).getLsbD 2 = user ∧
    (pageFaultCode present user reserved higher).getLsbD 3 = reserved ∧
    (pageFaultCode present user reserved higher).getLsbD 4 = false ∧
    (pageFaultCode present user reserved higher).extractLsb' 5 27 = higher) ∧
  (∀ (s : State) (g : Seg) (a : Nat) (f : Fault), s.pageFaultAt g a = some f →
    ∃ code, f = .pageFault code (BitVec.ofNat 64 a) ∧ code.getLsbD 1 = false ∧ code.getLsbD 4 = false ∧
      code.getLsbD 2 = decide (s.cpl = 3))

/-- D2: a code segment with a 16-bit default size is refused, at every step and by every instruction. -/
def Obligations.SixteenBitCodeIsRefused : Prop :=
  ∀ s : State, s.mode = .code16 →
    step s = .refused (.undecodable .codeSize16) ∧ ∀ i, exec i s = .refused (.undecodable .codeSize16)

/-- R23 and R108 (b): how MODE, OS_ENABLED, TS and AlignCheckOn are folded from control bits; the order of the mode conditions
is log entry 7. -/
def Obligations.ParametersAreFoldedFromControlBits : Prop :=
  ∀ s : State,
    (s.mode = .real ↔ s.cr0.getLsbD 0 = false) ∧
    (s.mode = .virtual8086 ↔ s.cr0.getLsbD 0 = true ∧ s.rflags.getLsbD 17 = true) ∧
    (s.mode = .mode64 ↔ s.cr0.getLsbD 0 = true ∧ s.rflags.getLsbD 17 = false ∧
      s.efer.getLsbD 10 = true ∧ s.csL = true) ∧
    (s.mode = .mode32 ↔ s.cr0.getLsbD 0 = true ∧ s.rflags.getLsbD 17 = false ∧
      ¬ (s.efer.getLsbD 10 = true ∧ s.csL = true) ∧ s.csD = true) ∧
    (s.osEnabled = true ↔ s.cr4.getLsbD 18 = true ∧ s.xcr0.getLsbD 1 = true ∧ s.xcr0.getLsbD 2 = true ∧
      s.xcr0.getLsbD 5 = true ∧ s.xcr0.getLsbD 6 = true ∧ s.xcr0.getLsbD 7 = true) ∧
    (s.ts = true ↔ s.cr0.getLsbD 3 = true) ∧
    (s.alignCheckOn = true ↔ s.cr0.getLsbD 18 = true ∧ s.rflags.getLsbD 18 = true ∧ s.cpl = 3)

/-! ## Encoding and decoding -/

/-- R48 to R66 and R70: decoding the encoding of a well-formed instruction, whatever follows it, gives the instruction. -/
def Obligations.DecodeInvertsEncode : Prop :=
  ∀ (m : Mode) (i : Instr) (rest : List Byte), i.wf m = true → decode m (encode i ++ rest) = .ok i

/-- R62, R66, R68: what the decoder reads is well formed in its mode; in `Mode32` no register is numbered 8 or above, and no
writemask is K0. -/
def Obligations.DecodedInstructionsAreWellFormed : Prop :=
  ∀ (m : Mode) (bs : List Byte) (i : Instr), decode m bs = .ok i → i.wf m = true

/-- R48 and R65: the decoder reads the `ILEN` bytes of the instruction and no other byte. -/
def Obligations.DecodeReadsOnlyTheInstruction : Prop :=
  ∀ (m : Mode) (bs : List Byte) (i : Instr), decode m bs = .ok i →
    i.ilen ≤ bs.length ∧ ∀ rest, decode m (bs.take i.ilen ++ rest) = .ok i

/-- R65: the length of an encoding in bytes, and its bounds with and without legacy prefixes. -/
def Obligations.EncodingLengthBounds : Prop :=
  ∀ (m : Mode) (i : Instr), i.wf m = true →
    6 ≤ (encode i).length ∧ (encode i).length ≤ 14 ∧
    (i.operands.prefixes = .noPrefix → (encode i).length ≤ 12)

/-- Log entry 9 with R65: fifteen bytes are always enough to decode, so a refusal for a missing byte is never for want of
looking. -/
def Obligations.FifteenBytesAreEnough : Prop :=
  ∀ (m : Mode) (bs : List Byte), Config.maxFetch ≤ bs.length → decode m bs ≠ .truncated

/-- R63 and R71: the six bytes after the legacy prefixes of an encoding select the instruction's own row of the opcode table
and no other row. -/
def Obligations.EncodingsSelectTheirTableRow : Prop :=
  ∀ (m : Mode) (i : Instr), i.wf m = true →
    ∃ (b0 b1 b2 b3 b4 b5 : Byte) (tail : List Byte),
      encode i = i.operands.prefixes.bytes ++ b0 :: b1 :: b2 :: b3 :: b4 :: b5 :: tail ∧
      i.tableRow.selects (b0 ++ b1 ++ b2 ++ b3 ++ b4 ++ b5) = true ∧
      ∀ i' : Instr, i'.tableRow ≠ i.tableRow → i'.tableRow.selects (b0 ++ b1 ++ b2 ++ b3 ++ b4 ++ b5) = false

/-- R63, R66, R67 (U-d, U-e) and R71: six bytes that select a row, behind admitted prefixes and with enough bytes after them,
decode in `Mode64` to an instruction of that row with those prefixes, or are #UD where `z = 1` with `aaa = 000`, or `b = 1` with
`mod = 3`. -/
def Obligations.TableRowsDecodeToTheirInstruction : Prop :=
  ∀ (i : Instr) (p : Prefixes) (w : BitVec 48) (tail : List Byte), 6 ≤ tail.length → i.tableRow.selects w = true →
    let bs := p.bytes ++ [w.extractLsb' 40 8, w.extractLsb' 32 8, w.extractLsb' 24 8, w.extractLsb' 16 8,
      w.extractLsb' 8 8, w.extractLsb' 0 8] ++ tail
    if (w.getLsbD 23 = true ∧ w.extractLsb' 16 3 = 0#3) ∨ (w.getLsbD 20 = true ∧ w.extractLsb' 6 2 = 3#2) then
      decode .mode64 bs = .invalidOpcode
    else ∃ i', decode .mode64 bs = .ok i' ∧ i'.tableRow = i.tableRow ∧ i'.operands.prefixes = p

/-- R47 to R56, R66: a few encodings written out from the spec's tables (95_test_vectors.md section 4). -/
def Obligations.SampleEncodingsDecode : Prop :=
  decode .mode64 [0x62, 0xF1, 0x75, 0x48, 0x72, 0xCA, 0x08] =
    .ok (.vprold512 ⟨.noPrefix, 1, .unmasked, .reg 2, 8⟩) ∧
  decode .mode64 [0x62, 0x82, 0x0D, 0xC5, 0x15, 0xC9] =
    .ok (.vprolvd512 ⟨.noPrefix, 17, .zeroing 5, 30, .reg 25⟩) ∧
  decode .mode64 [0x62, 0x91, 0xAD, 0x2C, 0x72, 0xCB, 0x21] =
    .ok (.vprolq256 ⟨.noPrefix, 10, .merging 4, .reg 27, 33⟩) ∧
  decode .mode64 [0x62, 0xF2, 0xED, 0x5B, 0x15, 0x4C, 0xCB, 0x02] =
    .ok (.vprolvq512 ⟨.noPrefix, 1, .merging 3, 2, .mem (.sib (some 3) (some 1) 3 (.d8 2)) true⟩) ∧
  decode .mode64 [0x67, 0x62, 0xF1, 0x75, 0x28, 0x72, 0x08, 0x03] =
    .ok (.vprold256 ⟨.addr, 1, .unmasked, .mem (.base 0 .noDisp) false, 3⟩) ∧
  decode .mode32 [0x62, 0xF2, 0xED, 0x08, 0x15, 0x0D, 0x00, 0x10, 0x00, 0x00] =
    .ok (.vprolvq128 ⟨.noPrefix, 1, .unmasked, 2, .mem (.disp32 0x1000) false⟩)

/-! ## Steps -/

/-- R46 with R18 and R39 (D8, D11): what the fetched bytes are. A byte can be fetched when its address is inside the address
space, canonical in `Mode64`, and in no range that the environment withholds; byte `k` fetched is the byte of memory at `pc + k`,
and there is one exactly when it and every byte before it can be fetched. The limit of fifteen bytes is log entry 9, pc as a
linear address log entry 11. -/
def Obligations.FetchedBytesAreTheMemoryAtPc : Prop :=
  (∀ (s : State) (a : Nat), s.fetchable a = true ↔
    a < 2 ^ s.addressWidth ∧
    (s.mode = .mode64 →
      a < 2 ^ (if s.env.fiveLevelPaging then 56 else 47) ∨
        2 ^ 64 - 2 ^ (if s.env.fiveLevelPaging then 56 else 47) ≤ a) ∧
    ∀ w ∈ s.env.noFetch, ¬ (w.first ≤ a ∧ a ≤ w.last)) ∧
  (∀ (s : State) (k : Nat) (b : Byte), s.fetchBytes[k]? = some b ↔
    k < Config.maxFetch ∧ (∀ j ≤ k, s.fetchable (s.pc.toNat + j) = true) ∧ b = s.mem.read (s.pc.toNat + k))

/-- R13, R46 and R70: when memory holds the encoding of a well-formed instruction at pc and every byte of it can be fetched, the
step is `exec` of it, which moves the pc past it itself; the same said of the fetched bytes, and whenever they decode to an
instruction. -/
def Obligations.StepRunsTheDecodedInstruction : Prop :=
  (∀ (s : State) (i : Instr), i.wf s.mode = true → BytesAtPc s (encode i) → step s = exec i s) ∧
  (∀ (s : State) (i : Instr) (rest : List Byte), i.wf s.mode = true → s.fetchBytes = encode i ++ rest →
    step s = exec i s) ∧
  (∀ (s : State) (i : Instr), decode s.mode s.fetchBytes = .ok i → step s = exec i s)

/-- R67 (U-c, U-d, U-e, U-g) with R66 and R70 steps 7 and 8: bytes that select a row are #UD with `L'L = 11`, with `z = 1` and
`aaa = 000`, with `b = 1` and a register operand, and behind a LOCK, 0x66, 0xF2, 0xF3 or (in `Mode64`) REX byte, whatever
admitted prefixes stand first and whatever the enabling state. -/
def Obligations.IllegalEncodingsAreInvalidOpcode : Prop :=
  ∀ (s : State) (p : Prefixes) (p0 p1 p2 opcode modrm : Byte) (tail : List Byte), s.mode.admitted = true →
    p.wf s.mode = true → (s.mode = .mode32 → p0.extractLsb' 6 2 = 3#2) → p0.extractLsb' 2 2 = 0#2 →
    p1.extractLsb' 2 1 = 1#1 → rowOf (p0mm p0) (p1pp p1) opcode (fieldReg modrm) ≠ none → 6 ≤ tail.length →
    ((p2LL p2 = 3 ∨ (p2z p2 = 1 ∧ p2aaa p2 = 0) ∨ (p2b p2 = 1 ∧ fieldMod modrm = 3)) →
      s.fetchBytes = p.bytes ++ 0x62 :: p0 :: p1 :: p2 :: opcode :: modrm :: tail → step s = .fault .invalidOpcode) ∧
    (∀ f : Byte, (f = 0xF0 ∨ f = 0x66 ∨ f = 0xF2 ∨ f = 0xF3 ∨ (s.mode = .mode64 ∧ 0x40 ≤ f ∧ f ≤ 0x4F)) →
      s.fetchBytes = p.bytes ++ f :: 0x62 :: p0 :: p1 :: p2 :: opcode :: modrm :: tail →
      step s = .fault .invalidOpcode)

/-- R69 with R67 (U-a, U-b), R68 and the closing paragraph of R70: bytes that are not one of the twelve encodings are refused,
not faulted, also behind admitted prefixes `p`: another first byte; a forbidden prefix before a byte other than 0x62; and, with
or without a forbidden prefix `f`, the BOUND instruction in `Mode32`, a reserved EVEX bit, or fields that select no row. -/
def Obligations.OtherBytesAreRefused : Prop :=
  ∀ (s : State) (p : Prefixes), s.mode.admitted = true → p.wf s.mode = true →
    (∀ (b : Byte) (tail : List Byte), segOverride b = none → b ≠ 0x67 → forbiddenPrefix s.mode b = false → b ≠ 0x62 →
      s.fetchBytes = p.bytes ++ b :: tail → step s = .refused (.undecodable .outOfScope)) ∧
    (∀ (f b : Byte) (tail : List Byte), forbiddenPrefix s.mode f = true → b ≠ 0x62 →
      s.fetchBytes = p.bytes ++ f :: b :: tail → step s = .refused (.undecodable .outOfScope)) ∧
    (∀ (f : Option Byte) (p0 p1 p2 opcode modrm : Byte) (tail : List Byte),
      (∀ x, f = some x → forbiddenPrefix s.mode x = true) →
      s.fetchBytes = p.bytes ++ f.toList ++ 0x62 :: p0 :: p1 :: p2 :: opcode :: modrm :: tail →
      (s.mode = .mode32 → p0.extractLsb' 6 2 ≠ 3#2 → step s = .refused (.undecodable .boundInstruction)) ∧
      ((s.mode = .mode32 → p0.extractLsb' 6 2 = 3#2) →
        (p0.extractLsb' 2 2 ≠ 0#2 ∨ p1.extractLsb' 2 1 ≠ 1#1 → step s = .refused (.undecodable .reservedBits)) ∧
        (p0.extractLsb' 2 2 = 0#2 → p1.extractLsb' 2 1 = 1#1 →
          rowOf (p0mm p0) (p1pp p1) opcode (fieldReg modrm) = none →
          step s = .refused (.undecodable .outOfScope))))

/-- R66 (D28) and R58 (D2): a second segment override, the same or another, and a second 0x67 are refused whatever follows; 0x67
in `Mode32`, first or behind a segment override, is refused as 16-bit addressing. -/
def Obligations.PrefixArrangementsAreRefused : Prop :=
  ∀ (s : State) (p : Prefixes) (tail : List Byte), s.mode.admitted = true → p.wf s.mode = true →
    (∀ b : Byte, segmentOverride p ≠ none → (b = 0x26 ∨ b = 0x2E ∨ b = 0x36 ∨ b = 0x3E ∨ b = 0x64 ∨ b = 0x65) →
      s.fetchBytes = p.bytes ++ b :: tail → step s = .refused (.undecodable .prefixArrangement)) ∧
    (hasAddressOverride p = true → s.fetchBytes = p.bytes ++ 0x67 :: tail →
      step s = .refused (.undecodable .prefixArrangement)) ∧
    (s.mode = .mode32 → s.fetchBytes = p.bytes ++ 0x67 :: tail → step s = .refused (.undecodable .addressing16))

/-- R70 steps 9 to 11 (D14, D21): an otherwise legal row with an unused extension bit stored as 0, behind any admitted prefixes,
is #UD where the state's #UD conditions hold, else refused, and never #NM. -/
def Obligations.UnusedExtensionBitsAreRefused : Prop :=
  ∀ (s : State) (p : Prefixes) (p0 p1 p2 opcode modrm : Byte) (tail : List Byte) (vl : VL) (k : Masking) (f : OpEn)
    (why : DecodeRefusal),
    s.mode.admitted = true → p.wf s.mode = true → (s.mode = .mode32 → p0.extractLsb' 6 2 = 3#2) →
    p0.extractLsb' 2 2 = 0#2 → p1.extractLsb' 2 1 = 1#1 →
    rowOf (p0mm p0) (p1pp p1) opcode (fieldReg modrm) = some f → 6 ≤ tail.length →
    vlOf (p2LL p2) = some vl → maskingOf (p2z p2) (p2aaa p2) = some k → ¬ (p2b p2 = 1 ∧ fieldMod modrm = 3) →
    ((f = .a ∧ (p0.getLsbD 7 = false ∨ p0.getLsbD 4 = false) ∧ why = .unusedBitsFormA) ∨
      (s.mode = .mode32 ∧ ¬ (f = .a ∧ (p0.getLsbD 7 = false ∨ p0.getLsbD 4 = false)) ∧
        (p0.getLsbD 5 = false ∨ p0.getLsbD 4 = false ∨ p2.getLsbD 3 = false ∨ p1.getLsbD 6 = false) ∧
        why = .unusedBitsMode32)) →
    s.fetchBytes = p.bytes ++ 0x62 :: p0 :: p1 :: p2 :: opcode :: modrm :: tail →
    step s = if s.osEnabled && s.hasFeatures vl then .refused (.undecodable why) else .fault .invalidOpcode

/-- R108 (a) with R67 (U-h): in real-address and virtual-8086 mode the bytes of an encoding are #UD, once they are all fetched.
That they are laid out as in `Mode32` there is log entry 9. -/
def Obligations.EncodingsAreInvalidOpcodeInRealMode : Prop :=
  ∀ (s : State) (i : Instr) (rest : List Byte), (s.mode = .real ∨ s.mode = .virtual8086) → i.wf .mode32 = true →
    s.fetchBytes = encode i ++ rest → step s = .fault .invalidOpcode

/-- R46 and R113 (D8, D17): an instruction a byte of which cannot be fetched is refused, whatever else would stop it. The first
two clauses: any encoding cut short, said of memory and of the fetched bytes, in `Mode64` and `Mode32`, and in the modes where a
whole one is #UD. The third: the bytes of an immediate form up to ModRM, whatever `L'L`, `z`, `aaa`, `b` and the extension bits
are, behind admitted prefixes and with or without a forbidden byte. The layout of the bytes after ModRM in real-address and
virtual-8086 mode is log entry 9. -/
def Obligations.FetchRefusalComesFirst : Prop :=
  (∀ (s : State) (i : Instr) (n : Nat),
    (s.mode.admitted = true ∧ i.wf s.mode = true) ∨
      ((s.mode = .real ∨ s.mode = .virtual8086) ∧ i.wf .mode32 = true) → n < (encode i).length →
    (BytesAtPc s ((encode i).take n) → s.fetchable (s.pc.toNat + n) = false → step s = .refused .notFetchable) ∧
    (s.fetchBytes = (encode i).take n → step s = .refused .notFetchable)) ∧
  (∀ (s : State) (p : Prefixes) (f : Option Byte) (p0 p1 p2 opcode modrm : Byte), s.mode ≠ .code16 →
    p.wf (if s.mode = .mode64 then .mode64 else .mode32) = true → (∀ x, f = some x → forbiddenPrefix s.mode x = true) →
    (s.mode ≠ .mode64 → p0.extractLsb' 6 2 = 3#2) → p0.extractLsb' 2 2 = 0#2 → p1.extractLsb' 2 1 = 1#1 →
    rowOf (p0mm p0) (p1pp p1) opcode (fieldReg modrm) = some .a →
    s.fetchBytes = p.bytes ++ f.toList ++ [0x62, p0, p1, p2, opcode, modrm] → step s = .refused .notFetchable)

/-- R26, R18, R82, R46 and R126 for the whole machine: a step that completes ran the one instruction that the bytes of memory
from pc on decode to, all of which could be fetched inside the address space, in an enabled state; it wrote one vector register, zero at and above the vector length,
moved the pc past the instruction, and changed nothing else. -/
def Obligations.EveryCompletedStepIsOneEnabledRotate : Prop :=
  ∀ (s t : State), step s = .next t →
    ∃ i, decode s.mode s.fetchBytes = .ok i ∧
      decode s.mode ((List.range i.ilen).map fun k => s.mem.read (s.pc.toNat + k)) = .ok i ∧ Runnable s i.vl ∧
      s.pc.toNat + i.ilen ≤ 2 ^ s.addressWidth ∧ (∀ k < i.ilen, s.fetchable (s.pc.toNat + k) = true) ∧
      t.pc.toNat = (s.pc.toNat + i.ilen) % 2 ^ s.addressWidth ∧
      (∀ b, i.vl.bits ≤ b → (t.readZmm i.operands.dest).getLsbD b = false) ∧
      OnlyWrites i.operands.dest s t

/-- R41, R44 and D18 for a run: however many steps complete, memory, the opmask, general and segment registers, the flags, the
status and control registers and the launch parameters are as they were; only vector registers and the pc may differ. -/
def Obligations.RunsChangeOnlyVectorRegistersAndPc : Prop :=
  ∀ (n : Nat) (s t : State), Sys2Proof.core.run n s = .next t →
    t = { s with zmm := t.zmm, pc := t.pc } ∧ ∀ a, t.mem.read a = s.mem.read a

/-- R18 and R24: every step that completes keeps memory in canonical form and the pc inside the address space of the mode. -/
def Obligations.StepKeepsTheStateInvariant : Prop :=
  ∀ (s t : State), Inv s → step s = .next t → Inv t

/-- The launch state meets the invariant (R18, R24; memory with nothing listed is log entry 1). -/
def Obligations.ResetMeetsTheStateInvariant : Prop := Inv State.reset

/-- The model's choice of a launch state (log entries 1, 2, 3, 5 and 6; R7 and R126 name the premises): `Mode64`, enabled,
both feature flags, TS, AlignCheckOn and FaultSuppression off, registers and memory zero. -/
def Obligations.ResetIsALaunchState : Prop :=
  State.reset.mode = .mode64 ∧ State.reset.osEnabled = true ∧ State.reset.ts = false ∧
  State.reset.alignCheckOn = false ∧ State.reset.hasAvx512f = true ∧ State.reset.hasAvx512vl = true ∧
  State.reset.env.faultSuppression = false ∧ State.reset.pc = 0 ∧
  (∀ r, State.reset.readZmm r = 0) ∧ (∀ r, State.reset.readK r = 0) ∧
  (∀ r, State.reset.readGpr 64 r = 0) ∧ (∀ a, State.reset.mem.read a = 0)

/-! ## The compiler intrinsics -/

/-- R75 and R76: the instruction an intrinsic compiles to completes, and its destination register holds the intrinsic's value
of its arguments, of which the mask is the low bits of the opmask register, as many as the mask type has. The immediate argument
is 8 bits: log entry 20. -/
def Obligations.IntrinsicsAreTheirInstructions : Prop :=
  ∀ (f : Intrinsic) (d src cnt : VReg) (k : KReg) (imm : BitVec 8) (s : State), k ≠ 0 → Runnable s f.vl →
    ∃ t, exec (f.instr d k src cnt imm) s = .next t ∧
      t.readZmm d =
        f.value (s.readZmm d) ((s.readK k).toNat % 2 ^ f.maskBits) (s.readZmm src) (s.readZmm cnt) imm ∧
      OnlyWrites d s t
end

