-- ==== Sys2Proof/Laws/Decode.lean ====
section
/-! SUPPORT. What the decoder's parts can answer. -/

namespace Sys2Proof

/-- What `judge` answers when it answers an instruction. -/
theorem judge_eq_ok {bad bRegister : Bool} {ll : BitVec 2} {z : BitVec 1} {aaa : BitVec 3} {unused : Option DecodeRefusal}
    {f : VL → Masking → Instr} {i : Instr} :
    judge bad bRegister ll z aaa unused f = .ok i ↔
      bad = false ∧ bRegister = false ∧ unused = none ∧ ∃ vl k, vlOf ll = some vl ∧ maskingOf z aaa = some k ∧ f vl k = i := by
  unfold judge
  cases vlOf ll <;> cases maskingOf z aaa <;> cases bad <;> cases bRegister <;> cases unused <;> simp

/-- Decoding answers an instruction only in a mode that has the encodings. -/
theorem admitted_of_decode {m : Mode} {bs : List Byte} {i : Instr} (h : decode m bs = .ok i) : m.admitted = true := by
  have h2 : ∀ p bad bs, decodeEvex m p bad bs = .ok i → m.admitted = true := by
    intro p bad bs hd
    unfold decodeEvex at hd
    repeat' split at hd
    all_goals first | simpa using (Bool.or_eq_false_iff.1 (judge_eq_ok.1 hd).1).2 | cases hd
  have h1 : ∀ p bs, decodeAfterPrefixes m p bs = .ok i → m.admitted = true := by
    intro p bs hd
    unfold decodeAfterPrefixes at hd
    repeat' split at hd
    all_goals first | exact h2 _ _ _ hd | cases hd
  unfold decode at h
  repeat' split at h
  all_goals first | exact h1 _ _ h | cases h

/-- Reading the override byte of a segment gives the segment. -/
@[simp] theorem segOverride_byte (g : Seg) : segOverride g.byte = some g := by cases g <;> decide

/-- Admitted prefix bytes before a byte that is no override are read whole. -/
theorem scanPrefixes_bytes {m : Mode} {p : Prefixes} (hp : p.wf m = true) {b : Byte} (hs : segOverride b = none)
    (ha : b ≠ 0x67) (rest : List Byte) :
    scanPrefixes m .noPrefix (p.bytes ++ b :: rest) = .found p (b :: rest) := by
  have h67 : segOverride 0x67 = none := by decide
  cases p <;> simp_all [Prefixes.wf, Prefixes.bytes, scanPrefixes, Prefixes.addSeg, Prefixes.addAddr]

end Sys2Proof
end

