-- ==== Sys2Proof/Laws/Lanes.lean ====
section
/-! SUPPORT. What packing elements and taking an element back give. -/

namespace Sys2Proof.Machine

open Sys2Proof

/-- Every bit of a packed vector: bit `i` is bit `i % w` of element `i / w`, and 0 above the last element. -/
theorem packLanes_getLsbD {w : Nat} (hw : 0 < w) (f : Nat → BitVec w) (n i : Nat) :
    (packLanes w f n).getLsbD i = (decide (i < 512) && decide (i < n * w) && (f (i / w)).getLsbD (i % w)) := by
  induction n with
  | zero => simp [packLanes]
  | succ n ih =>
    rw [packLanes, BitVec.getLsbD_or, ih, BitVec.getLsbD_shiftLeft, BitVec.getLsbD_setWidth]
    have hs : (n + 1) * w = n * w + w := Nat.succ_mul n w
    rcases Nat.lt_or_ge i (n * w) with h | h
    · have : i < (n + 1) * w := by omega
      simp [h, this]
    · rcases Nat.lt_or_ge i ((n + 1) * w) with h2 | h2
      · have hd : i / w = n := by
          rw [Nat.div_eq_iff hw]
          omega
        have hm : i % w = i - n * w := by
          have := Nat.div_add_mod i w
          rw [hd, Nat.mul_comm] at this
          omega
        have h3 : ¬ i < n * w := by omega
        by_cases h4 : i < 512
        · have : i - n * w < 512 := by omega
          simp [h2, h3, h4, this, hd, hm]
        · simp [h4]
      · have h3 : ¬ i < n * w := by omega
        have h4 : ¬ i < (n + 1) * w := by omega
        have h5 : (f n).getLsbD (i - n * w) = false := BitVec.getLsbD_of_ge _ _ (by omega)
        simp [h3, h4, h5]

/-- Element `j` of a packed vector, for an element that lies inside the vector. -/
theorem lane_packLanes {w : Nat} (hw : 0 < w) (f : Nat → BitVec w) {n j : Nat} (hj : j < n) (hn : n * w ≤ 512) :
    lane w (packLanes w f n) j = f j := by
  apply BitVec.eq_of_getLsbD_eq
  intro i hi
  have hjn : (j + 1) * w ≤ n * w := Nat.mul_le_mul_right w hj
  have hs : (j + 1) * w = j * w + w := Nat.succ_mul j w
  have hd : (j * w + i) / w = j := by
    rw [Nat.div_eq_iff hw]
    omega
  have hm : (j * w + i) % w = i := by
    rw [Nat.mul_comm, Nat.mul_add_mod, Nat.mod_eq_of_lt hi]
  have h1 : j * w + i < n * w := by omega
  have h2 : j * w + i < 512 := by omega
  rw [lane, BitVec.getLsbD_extractLsb', packLanes_getLsbD hw, hd, hm]
  simp [hi, h1, h2]

/-- No bit above the last element is set. -/
theorem packLanes_shiftRight {w : Nat} (hw : 0 < w) (f : Nat → BitVec w) {n b : Nat} (h : n * w ≤ b) :
    packLanes w f n >>> b = 0 := by
  apply BitVec.eq_of_getLsbD_eq
  intro i _
  have : ¬ b + i < n * w := by omega
  simp [packLanes_getLsbD hw, this]

/-- The elements of a vector length fill it exactly, and it fits a register. -/
theorem laneCount_mul_bits (e : ElemSize) (vl : VL) : laneCount e vl * e.bits = vl.bits := by
  cases e <;> cases vl <;> rfl

theorem bits_pos (e : ElemSize) : 0 < e.bits := by cases e <;> decide

theorem vlBits_le (vl : VL) : vl.bits ≤ 512 := by cases vl <;> decide

/-- Element `j` of the new destination register is the masked element `j`. -/
theorem lane_maskedResult (s : State) (e : ElemSize) (vl : VL) (m : Masking) (d : VReg)
    (rotated : Nat → BitVec e.bits) {j : Nat} (hj : j < laneCount e vl) :
    lane e.bits (s.maskedResult e vl m d rotated) j =
      s.maskedLane m j (rotated j) (lane e.bits (s.readZmm d) j) :=
  lane_packLanes (bits_pos e) _ hj (by rw [laneCount_mul_bits]; exact vlBits_le vl)

/-- The new destination register has no bit set at or above the vector length. -/
theorem maskedResult_shiftRight (s : State) (e : ElemSize) (vl : VL) (m : Masking) (d : VReg)
    (rotated : Nat → BitVec e.bits) : s.maskedResult e vl m d rotated >>> vl.bits = 0 :=
  packLanes_shiftRight (bits_pos e) _ (laneCount_mul_bits e vl).le

end Sys2Proof.Machine
end

