-- ==== Sys2Proof/Laws/State.lean ====
section
/-! SUPPORT. One lemma for each field of State and each update, true by definition, and what the functions of State that
no update touches become. -/

namespace Sys2Proof.Machine

open Sys2Proof

/-! ## Fields -/

@[simp] theorem writeZmm_zmm (s : State) (r : VReg) (v : Vec) : (s.writeZmm r v).zmm = s.zmm.set r.toNat v r.isLt := rfl
@[simp] theorem writeZmm_k (s : State) (r : VReg) (v : Vec) : (s.writeZmm r v).k = s.k := rfl
@[simp] theorem writeZmm_gpr (s : State) (r : VReg) (v : Vec) : (s.writeZmm r v).gpr = s.gpr := rfl
@[simp] theorem writeZmm_pc (s : State) (r : VReg) (v : Vec) : (s.writeZmm r v).pc = s.pc := rfl
@[simp] theorem writeZmm_segBases (s : State) (r : VReg) (v : Vec) : (s.writeZmm r v).segBases = s.segBases := rfl
@[simp] theorem writeZmm_rflags (s : State) (r : VReg) (v : Vec) : (s.writeZmm r v).rflags = s.rflags := rfl
@[simp] theorem writeZmm_mxcsr (s : State) (r : VReg) (v : Vec) : (s.writeZmm r v).mxcsr = s.mxcsr := rfl
@[simp] theorem writeZmm_x87Status (s : State) (r : VReg) (v : Vec) : (s.writeZmm r v).x87Status = s.x87Status := rfl
@[simp] theorem writeZmm_cr0 (s : State) (r : VReg) (v : Vec) : (s.writeZmm r v).cr0 = s.cr0 := rfl
@[simp] theorem writeZmm_cr2 (s : State) (r : VReg) (v : Vec) : (s.writeZmm r v).cr2 = s.cr2 := rfl
@[simp] theorem writeZmm_cr4 (s : State) (r : VReg) (v : Vec) : (s.writeZmm r v).cr4 = s.cr4 := rfl
@[simp] theorem writeZmm_xcr0 (s : State) (r : VReg) (v : Vec) : (s.writeZmm r v).xcr0 = s.xcr0 := rfl
@[simp] theorem writeZmm_efer (s : State) (r : VReg) (v : Vec) : (s.writeZmm r v).efer = s.efer := rfl
@[simp] theorem writeZmm_csL (s : State) (r : VReg) (v : Vec) : (s.writeZmm r v).csL = s.csL := rfl
@[simp] theorem writeZmm_csD (s : State) (r : VReg) (v : Vec) : (s.writeZmm r v).csD = s.csD := rfl
@[simp] theorem writeZmm_cpl (s : State) (r : VReg) (v : Vec) : (s.writeZmm r v).cpl = s.cpl := rfl
@[simp] theorem writeZmm_hasAvx512f (s : State) (r : VReg) (v : Vec) : (s.writeZmm r v).hasAvx512f = s.hasAvx512f := rfl
@[simp] theorem writeZmm_hasAvx512vl (s : State) (r : VReg) (v : Vec) : (s.writeZmm r v).hasAvx512vl = s.hasAvx512vl := rfl
@[simp] theorem writeZmm_env (s : State) (r : VReg) (v : Vec) : (s.writeZmm r v).env = s.env := rfl
@[simp] theorem writeZmm_mem (s : State) (r : VReg) (v : Vec) : (s.writeZmm r v).mem = s.mem := rfl

@[simp] theorem setPc_zmm (s : State) (v : Word) : (s.setPc v).zmm = s.zmm := rfl
@[simp] theorem setPc_k (s : State) (v : Word) : (s.setPc v).k = s.k := rfl
@[simp] theorem setPc_gpr (s : State) (v : Word) : (s.setPc v).gpr = s.gpr := rfl
@[simp] theorem setPc_pc (s : State) (v : Word) : (s.setPc v).pc = v := rfl
@[simp] theorem setPc_segBases (s : State) (v : Word) : (s.setPc v).segBases = s.segBases := rfl
@[simp] theorem setPc_rflags (s : State) (v : Word) : (s.setPc v).rflags = s.rflags := rfl
@[simp] theorem setPc_mxcsr (s : State) (v : Word) : (s.setPc v).mxcsr = s.mxcsr := rfl
@[simp] theorem setPc_x87Status (s : State) (v : Word) : (s.setPc v).x87Status = s.x87Status := rfl
@[simp] theorem setPc_cr0 (s : State) (v : Word) : (s.setPc v).cr0 = s.cr0 := rfl
@[simp] theorem setPc_cr2 (s : State) (v : Word) : (s.setPc v).cr2 = s.cr2 := rfl
@[simp] theorem setPc_cr4 (s : State) (v : Word) : (s.setPc v).cr4 = s.cr4 := rfl
@[simp] theorem setPc_xcr0 (s : State) (v : Word) : (s.setPc v).xcr0 = s.xcr0 := rfl
@[simp] theorem setPc_efer (s : State) (v : Word) : (s.setPc v).efer = s.efer := rfl
@[simp] theorem setPc_csL (s : State) (v : Word) : (s.setPc v).csL = s.csL := rfl
@[simp] theorem setPc_csD (s : State) (v : Word) : (s.setPc v).csD = s.csD := rfl
@[simp] theorem setPc_cpl (s : State) (v : Word) : (s.setPc v).cpl = s.cpl := rfl
@[simp] theorem setPc_hasAvx512f (s : State) (v : Word) : (s.setPc v).hasAvx512f = s.hasAvx512f := rfl
@[simp] theorem setPc_hasAvx512vl (s : State) (v : Word) : (s.setPc v).hasAvx512vl = s.hasAvx512vl := rfl
@[simp] theorem setPc_env (s : State) (v : Word) : (s.setPc v).env = s.env := rfl
@[simp] theorem setPc_mem (s : State) (v : Word) : (s.setPc v).mem = s.mem := rfl

@[simp] theorem setMem_zmm (s : State) (m : Memory) : (s.setMem m).zmm = s.zmm := rfl
@[simp] theorem setMem_k (s : State) (m : Memory) : (s.setMem m).k = s.k := rfl
@[simp] theorem setMem_gpr (s : State) (m : Memory) : (s.setMem m).gpr = s.gpr := rfl
@[simp] theorem setMem_pc (s : State) (m : Memory) : (s.setMem m).pc = s.pc := rfl
@[simp] theorem setMem_segBases (s : State) (m : Memory) : (s.setMem m).segBases = s.segBases := rfl
@[simp] theorem setMem_rflags (s : State) (m : Memory) : (s.setMem m).rflags = s.rflags := rfl
@[simp] theorem setMem_mxcsr (s : State) (m : Memory) : (s.setMem m).mxcsr = s.mxcsr := rfl
@[simp] theorem setMem_x87Status (s : State) (m : Memory) : (s.setMem m).x87Status = s.x87Status := rfl
@[simp] theorem setMem_cr0 (s : State) (m : Memory) : (s.setMem m).cr0 = s.cr0 := rfl
@[simp] theorem setMem_cr2 (s : State) (m : Memory) : (s.setMem m).cr2 = s.cr2 := rfl
@[simp] theorem setMem_cr4 (s : State) (m : Memory) : (s.setMem m).cr4 = s.cr4 := rfl
@[simp] theorem setMem_xcr0 (s : State) (m : Memory) : (s.setMem m).xcr0 = s.xcr0 := rfl
@[simp] theorem setMem_efer (s : State) (m : Memory) : (s.setMem m).efer = s.efer := rfl
@[simp] theorem setMem_csL (s : State) (m : Memory) : (s.setMem m).csL = s.csL := rfl
@[simp] theorem setMem_csD (s : State) (m : Memory) : (s.setMem m).csD = s.csD := rfl
@[simp] theorem setMem_cpl (s : State) (m : Memory) : (s.setMem m).cpl = s.cpl := rfl
@[simp] theorem setMem_hasAvx512f (s : State) (m : Memory) : (s.setMem m).hasAvx512f = s.hasAvx512f := rfl
@[simp] theorem setMem_hasAvx512vl (s : State) (m : Memory) : (s.setMem m).hasAvx512vl = s.hasAvx512vl := rfl
@[simp] theorem setMem_env (s : State) (m : Memory) : (s.setMem m).env = s.env := rfl
@[simp] theorem setMem_mem (s : State) (m : Memory) : (s.setMem m).mem = m := rfl

@[simp] theorem complete_zmm (s : State) (len : Nat) (d : VReg) (v : Vec) : (s.complete len d v).zmm = s.zmm.set d.toNat v d.isLt := rfl
@[simp] theorem complete_k (s : State) (len : Nat) (d : VReg) (v : Vec) : (s.complete len d v).k = s.k := rfl
@[simp] theorem complete_gpr (s : State) (len : Nat) (d : VReg) (v : Vec) : (s.complete len d v).gpr = s.gpr := rfl
@[simp] theorem complete_pc (s : State) (len : Nat) (d : VReg) (v : Vec) : (s.complete len d v).pc = s.nextPc len := rfl
@[simp] theorem complete_segBases (s : State) (len : Nat) (d : VReg) (v : Vec) : (s.complete len d v).segBases = s.segBases := rfl
@[simp] theorem complete_rflags (s : State) (len : Nat) (d : VReg) (v : Vec) : (s.complete len d v).rflags = s.rflags := rfl
@[simp] theorem complete_mxcsr (s : State) (len : Nat) (d : VReg) (v : Vec) : (s.complete len d v).mxcsr = s.mxcsr := rfl
@[simp] theorem complete_x87Status (s : State) (len : Nat) (d : VReg) (v : Vec) : (s.complete len d v).x87Status = s.x87Status := rfl
@[simp] theorem complete_cr0 (s : State) (len : Nat) (d : VReg) (v : Vec) : (s.complete len d v).cr0 = s.cr0 := rfl
@[simp] theorem complete_cr2 (s : State) (len : Nat) (d : VReg) (v : Vec) : (s.complete len d v).cr2 = s.cr2 := rfl
@[simp] theorem complete_cr4 (s : State) (len : Nat) (d : VReg) (v : Vec) : (s.complete len d v).cr4 = s.cr4 := rfl
@[simp] theorem complete_xcr0 (s : State) (len : Nat) (d : VReg) (v : Vec) : (s.complete len d v).xcr0 = s.xcr0 := rfl
@[simp] theorem complete_efer (s : State) (len : Nat) (d : VReg) (v : Vec) : (s.complete len d v).efer = s.efer := rfl
@[simp] theorem complete_csL (s : State) (len : Nat) (d : VReg) (v : Vec) : (s.complete len d v).csL = s.csL := rfl
@[simp] theorem complete_csD (s : State) (len : Nat) (d : VReg) (v : Vec) : (s.complete len d v).csD = s.csD := rfl
@[simp] theorem complete_cpl (s : State) (len : Nat) (d : VReg) (v : Vec) : (s.complete len d v).cpl = s.cpl := rfl
@[simp] theorem complete_hasAvx512f (s : State) (len : Nat) (d : VReg) (v : Vec) : (s.complete len d v).hasAvx512f = s.hasAvx512f := rfl
@[simp] theorem complete_hasAvx512vl (s : State) (len : Nat) (d : VReg) (v : Vec) : (s.complete len d v).hasAvx512vl = s.hasAvx512vl := rfl
@[simp] theorem complete_env (s : State) (len : Nat) (d : VReg) (v : Vec) : (s.complete len d v).env = s.env := rfl
@[simp] theorem complete_mem (s : State) (len : Nat) (d : VReg) (v : Vec) : (s.complete len d v).mem = s.mem := rfl

/-! ## Functions of the state that an update leaves alone -/

@[simp] theorem writeZmm_mode (s : State) (r : VReg) (v : Vec) : (s.writeZmm r v).mode = s.mode := rfl
@[simp] theorem writeZmm_osEnabled (s : State) (r : VReg) (v : Vec) : (s.writeZmm r v).osEnabled = s.osEnabled := rfl
@[simp] theorem writeZmm_ts (s : State) (r : VReg) (v : Vec) : (s.writeZmm r v).ts = s.ts := rfl
@[simp] theorem writeZmm_alignCheckOn (s : State) (r : VReg) (v : Vec) : (s.writeZmm r v).alignCheckOn = s.alignCheckOn := rfl
@[simp] theorem writeZmm_addressWidth (s : State) (r : VReg) (v : Vec) : (s.writeZmm r v).addressWidth = s.addressWidth := rfl

@[simp] theorem setPc_mode (s : State) (v : Word) : (s.setPc v).mode = s.mode := rfl
@[simp] theorem setPc_osEnabled (s : State) (v : Word) : (s.setPc v).osEnabled = s.osEnabled := rfl
@[simp] theorem setPc_ts (s : State) (v : Word) : (s.setPc v).ts = s.ts := rfl
@[simp] theorem setPc_alignCheckOn (s : State) (v : Word) : (s.setPc v).alignCheckOn = s.alignCheckOn := rfl
@[simp] theorem setPc_addressWidth (s : State) (v : Word) : (s.setPc v).addressWidth = s.addressWidth := rfl

@[simp] theorem setMem_mode (s : State) (m : Memory) : (s.setMem m).mode = s.mode := rfl
@[simp] theorem setMem_osEnabled (s : State) (m : Memory) : (s.setMem m).osEnabled = s.osEnabled := rfl
@[simp] theorem setMem_ts (s : State) (m : Memory) : (s.setMem m).ts = s.ts := rfl
@[simp] theorem setMem_alignCheckOn (s : State) (m : Memory) : (s.setMem m).alignCheckOn = s.alignCheckOn := rfl
@[simp] theorem setMem_addressWidth (s : State) (m : Memory) : (s.setMem m).addressWidth = s.addressWidth := rfl

@[simp] theorem complete_mode (s : State) (len : Nat) (d : VReg) (v : Vec) : (s.complete len d v).mode = s.mode := rfl
@[simp] theorem complete_osEnabled (s : State) (len : Nat) (d : VReg) (v : Vec) : (s.complete len d v).osEnabled = s.osEnabled := rfl
@[simp] theorem complete_ts (s : State) (len : Nat) (d : VReg) (v : Vec) : (s.complete len d v).ts = s.ts := rfl
@[simp] theorem complete_alignCheckOn (s : State) (len : Nat) (d : VReg) (v : Vec) : (s.complete len d v).alignCheckOn = s.alignCheckOn := rfl
@[simp] theorem complete_addressWidth (s : State) (len : Nat) (d : VReg) (v : Vec) : (s.complete len d v).addressWidth = s.addressWidth := rfl

/-! ## Reading a register after a write -/

theorem readZmm_writeZmm_same (s : State) (r : VReg) (v : Vec) : (s.writeZmm r v).readZmm r = v := by
  simp [State.readZmm, State.writeZmm]

theorem readZmm_writeZmm_other (s : State) {r q : VReg} (v : Vec) (h : q ≠ r) :
    (s.writeZmm r v).readZmm q = s.readZmm q := by
  have hn : r.toNat ≠ q.toNat := fun e => h (BitVec.eq_of_toNat_eq e.symm)
  simp [State.readZmm, State.writeZmm, hn]

@[simp] theorem readZmm_setPc (s : State) (v : Word) (r : VReg) : (s.setPc v).readZmm r = s.readZmm r := rfl

/-- The destination of a completed step holds the value written. -/
theorem readZmm_complete_same (s : State) (len : Nat) (d : VReg) (v : Vec) : (s.complete len d v).readZmm d = v := by
  simp [State.complete, readZmm_writeZmm_same]

/-- Every other vector register of a completed step is as it was. -/
theorem readZmm_complete_other (s : State) (len : Nat) {d q : VReg} (v : Vec) (h : q ≠ d) :
    (s.complete len d v).readZmm q = s.readZmm q := by
  simp [State.complete, readZmm_writeZmm_other s v h]

@[simp] theorem readK_complete (s : State) (len : Nat) (d : VReg) (v : Vec) (r : KReg) :
    (s.complete len d v).readK r = s.readK r := rfl

@[simp] theorem readGpr_complete (s : State) (len : Nat) (d : VReg) (v : Vec) (a : Nat) (r : GReg) :
    (s.complete len d v).readGpr a r = s.readGpr a r := rfl

end Sys2Proof.Machine
end

