-- ==== Sys2Proof/Laws/Exec.lean ====
section
/-! SUPPORT. What each shared operation can do, said once: the checks, the read of an operand, a rotate, an instruction
and a step. -/

namespace Sys2Proof.Machine

open Sys2Proof Host

/-! ## Outcomes -/

/-- A composed outcome is a next state only through a next value of its first part. -/
theorem andThen_eq_next {α β : Type} {o : Outcome α Fault Refusal} {f : α → Outcome β Fault Refusal} {b : β} :
    andThen o f = .next b ↔ ∃ a, o = .next a ∧ f a = .next b := by
  cases o <;> simp [andThen]

@[simp] theorem andThen_next {α β : Type} (a : α) (f : α → Outcome β Fault Refusal) : andThen (.next a) f = f a := rfl

@[simp] theorem andThen_fault {α β : Type} (r : Fault) (f : α → Outcome β Fault Refusal) :
    andThen (.fault r) f = .fault r := rfl

@[simp] theorem andThen_refused {α β : Type} (r : Refusal) (f : α → Outcome β Fault Refusal) :
    andThen (.refused r) f = .refused r := rfl

/-! ## The checks before an operand is read -/

/-- An instruction passes the checks exactly in an admitted mode, with the vector state enabled, its features present and
TS clear. -/
theorem checkEnabled_eq_next {s : State} {vl : VL} {u : Unit} :
    checkEnabled s vl = .next u ↔
      s.mode.admitted = true ∧ s.osEnabled = true ∧ s.hasFeatures vl = true ∧ s.ts = false := by
  unfold checkEnabled State.undefinedOpcode
  cases hm : s.mode <;> cases s.osEnabled <;> cases s.hasFeatures vl <;> cases s.ts <;>
    simp [Mode.admitted, raise]

/-! ## The read of an operand -/

/-- What a read of memory answers: the accessed bytes, where nothing refuses or faults. -/
theorem memRead_eq_next {s : State} {g : Seg} {la n : Nat} {acc : Nat → Bool} {v : Vec} :
    memRead s g la n acc = .next v ↔
      la + n ≤ 2 ^ s.addressWidth ∧ (s.alignCheckOn = true → la % n = 0) ∧
      (accessedAddresses la n acc).any s.isDevice = false ∧
      s.memReadable g (accessedAddresses la n acc) = none ∧
      packLanes 8 (fun i => if acc i then s.mem.read (la + i) else 0) n = v := by
  unfold memRead
  by_cases h1 : 2 ^ s.addressWidth < la + n
  · simp [h1, Nat.not_le.2 h1]
  · by_cases h2 : s.alignCheckOn = true ∧ la % n ≠ 0
    · simp [h1, h2.1, h2.2]
    · have h2' : (s.alignCheckOn && la % n != 0) = false := by
        cases ha : s.alignCheckOn
        · rfl
        · have : la % n = 0 := by
            by_contra hne
            exact h2 ⟨ha, hne⟩
          simp [this]
      have h2'' : s.alignCheckOn = true → la % n = 0 := by
        intro ha
        by_contra hne
        exact h2 ⟨ha, hne⟩
      cases h3 : (accessedAddresses la n acc).any s.isDevice
      · cases h4 : s.memReadable g (accessedAddresses la n acc)
        · simp [h1, h2', Nat.not_lt.1 h1]
          exact fun _ => h2''
        · simp [h1, h2', raise]
      · simp [h1, h2']

/-- The bytes that `MemReadable` lets be read are those it has no fault for. -/
theorem memReadable_eq_none {s : State} {g : Seg} {as : List Nat} :
    s.memReadable g as = none ↔ ∀ a ∈ as, s.segmentFaultAt g a = none ∧ s.pageFaultAt g a = none := by
  unfold State.memReadable
  cases h : as.findSome? (s.segmentFaultAt g) with
  | none =>
    rw [List.findSome?_eq_none_iff] at h
    simp only [List.findSome?_eq_none_iff]
    exact ⟨fun h2 a ha => ⟨h a ha, h2 a ha⟩, fun h2 a ha => (h2 a ha).2⟩
  | some f =>
    obtain ⟨a, ha, hf⟩ := List.exists_of_findSome?_eq_some h
    simp only [reduceCtorEq, false_iff]
    intro h2
    rw [(h2 a ha).1] at hf
    cases hf

/-- The addresses of the accessed bytes. -/
theorem mem_accessedAddresses {la n a : Nat} {acc : Nat → Bool} :
    a ∈ accessedAddresses la n acc ↔ ∃ i < n, acc i = true ∧ la + i = a := by
  simp [accessedAddresses, and_assoc]

/-! ## The instructions -/

/-- The state an immediate form gives when it completes. -/
theorem rotateImmediate_eq_next {e : ElemSize} {vl : VL} {o : ImmForm} {s t : State} :
    rotateImmediate e vl o s = .next t ↔
      checkEnabled s vl = .next () ∧
      ∃ v, s.readRM o.prefixes o.ilen e vl o.mask o.src = .next v ∧
        t = s.complete o.ilen o.dest
          (s.maskedResult e vl o.mask o.dest fun j => rol (rmLane e o.src v j) o.imm.toNat) := by
  simp only [rotateImmediate, andThen_eq_next, Outcome.next.injEq]
  constructor
  · rintro ⟨_, h1, v, h2, rfl⟩
    exact ⟨h1, v, h2, rfl⟩
  · rintro ⟨h1, v, h2, rfl⟩
    exact ⟨(), h1, v, h2, rfl⟩

/-- The state a variable form gives when it completes. -/
theorem rotateVariable_eq_next {e : ElemSize} {vl : VL} {o : VarForm} {s t : State} :
    rotateVariable e vl o s = .next t ↔
      checkEnabled s vl = .next () ∧
      ∃ v, s.readRM o.prefixes o.ilen e vl o.mask o.count = .next v ∧
        t = s.complete o.ilen o.dest
          (s.maskedResult e vl o.mask o.dest fun j =>
            rol (lane e.bits (s.readZmm o.src) j) (rmLane e o.count v j).toNat) := by
  simp only [rotateVariable, andThen_eq_next, Outcome.next.injEq]
  constructor
  · rintro ⟨_, h1, v, h2, rfl⟩
    exact ⟨h1, v, h2, rfl⟩
  · rintro ⟨h1, v, h2, rfl⟩
    exact ⟨(), h1, v, h2, rfl⟩

/-! ## A step -/

/-- A step that answers a next state ran an instruction that the decoder read at pc. -/
theorem step_eq_next {s t : State} : step s = .next t ↔ ∃ i, decode s.mode s.fetchBytes = .ok i ∧ exec i s = .next t := by
  unfold step
  cases decode s.mode s.fetchBytes <;> simp [stopInvalid, stopTruncated, stopRefused, raise]
  · unfold stopUnusedBits
    split <;> simp [raise]

end Sys2Proof.Machine
end

