-- ==== Sys2Proof/Laws/Memory.lean ====
section
/-! SUPPORT. The laws of memory: a read after a write, and the canonical form, which every memory operation keeps. -/

namespace Sys2Proof.Machine

open Sys2Proof

/-! ## The canonical form -/

theorem wfFrom_cons (lo x : Nat) (v : Byte) (m : Memory) :
    Memory.wfFrom lo ((x, v) :: m) = true ↔
      lo ≤ x ∧ x < 2 ^ 64 ∧ v ≠ Config.unlistedByte ∧ Memory.wfFrom (x + 1) m = true := by
  simp [Memory.wfFrom, and_assoc]

/-- A memory in canonical form from an address on is in canonical form from any lower one on. -/
theorem wfFrom_mono {lo lo' : Nat} (h : lo' ≤ lo) : ∀ {m : Memory}, Memory.wfFrom lo m = true → Memory.wfFrom lo' m = true
  | [], _ => rfl
  | (x, v) :: m, hm => by
    rw [wfFrom_cons] at hm ⊢
    exact ⟨h.trans hm.1, hm.2⟩

theorem cons_wfFrom {lo a : Nat} (v : Byte) {m : Memory} (hlo : lo ≤ a) (ha : a < 2 ^ 64)
    (hm : Memory.wfFrom (a + 1) m = true) : Memory.wfFrom lo (Memory.cons a v m) = true := by
  by_cases hv : v = Config.unlistedByte
  · simpa [Memory.cons, hv] using wfFrom_mono (by omega) hm
  · simp only [Memory.cons, hv, if_false]
    exact (wfFrom_cons _ _ _ _).2 ⟨hlo, ha, hv, hm⟩

theorem write_wfFrom {a : Nat} (v : Byte) (ha : a < 2 ^ 64) :
    ∀ {m : Memory} {lo : Nat}, lo ≤ a → Memory.wfFrom lo m = true → Memory.wfFrom lo (m.write a v) = true
  | [], _, hlo, _ => cons_wfFrom v hlo ha rfl
  | (x, u) :: m, lo, hlo, hm => by
    obtain ⟨h1, h2, h3, h4⟩ := (wfFrom_cons _ _ _ _).1 hm
    unfold Memory.write
    split
    · exact cons_wfFrom v hlo ha ((wfFrom_cons _ _ _ _).2 ⟨by omega, h2, h3, h4⟩)
    · split
      · next h => subst h; exact cons_wfFrom v hlo ha h4
      · exact (wfFrom_cons _ _ _ _).2 ⟨h1, h2, h3, write_wfFrom v ha (by omega) h4⟩

/-- A write of one byte keeps the canonical form. -/
theorem write_wf {m : Memory} {a : Nat} (v : Byte) (ha : a < 2 ^ 64) (hm : m.wf = true) : (m.write a v).wf = true :=
  write_wfFrom v ha (Nat.zero_le a) hm

/-- A write of several bytes keeps the canonical form. -/
theorem writeBytes_wf : ∀ (bs : List Byte) {m : Memory} (a : Nat), m.wf = true → (m.writeBytes a bs).wf = true
  | [], _, _, hm => hm
  | b :: bs, _, a, hm => writeBytes_wf bs (a + 1) (write_wf b (Nat.mod_lt _ (by norm_num)) hm)

/-- Placing an opcode-table word keeps the canonical form. -/
theorem withFetchWord_wf (s : State) (nbits w : Nat) (hm : s.mem.wf = true) : (s.withFetchWord nbits w).mem.wf = true :=
  writeBytes_wf _ _ hm

/-- The memory of the launch state is in canonical form. -/
theorem reset_mem_wf : State.reset.mem.wf = true := rfl

/-! ## Reading -/

/-- Below its first address a canonical memory lists nothing. -/
theorem read_of_lt : ∀ {m : Memory} {lo a : Nat}, Memory.wfFrom lo m = true → a < lo → m.read a = Config.unlistedByte
  | [], _, _, _, _ => rfl
  | (x, v) :: m, lo, a, hm, ha => by
    obtain ⟨h1, _, _, h4⟩ := (wfFrom_cons _ _ _ _).1 hm
    rw [Memory.read, if_neg (by omega)]
    exact read_of_lt h4 (by omega)

theorem read_cons {lo a b : Nat} (v : Byte) {m : Memory} (hm : Memory.wfFrom lo m = true) (hlo : a < lo) :
    (Memory.cons a v m).read b = if b = a then v else m.read b := by
  unfold Memory.cons
  by_cases hv : v = Config.unlistedByte
  · by_cases hb : b = a
    · simp [hv, hb, read_of_lt hm hlo]
    · simp [hv, hb]
  · simp [hv, Memory.read]

theorem read_write_from (a b : Nat) (v : Byte) :
    ∀ {m : Memory} {lo : Nat}, Memory.wfFrom lo m = true → (m.write a v).read b = if b = a then v else m.read b
  | [], _, _ => by
    rw [Memory.write]
    exact read_cons (lo := a + 1) v rfl (by omega)
  | (x, u) :: m, lo, hm => by
    obtain ⟨h1, h2, h3, h4⟩ := (wfFrom_cons _ _ _ _).1 hm
    unfold Memory.write
    split
    · next h =>
      have hx : Memory.wfFrom x ((x, u) :: m) = true := (wfFrom_cons _ _ _ _).2 ⟨le_refl x, h2, h3, h4⟩
      exact read_cons v hx h
    · split
      · next h =>
        subst h
        rw [read_cons v h4 (by omega)]
        by_cases hb : b = a <;> simp [Memory.read, hb]
      · next h1 h2 =>
        rw [Memory.read, Memory.read, read_write_from a b v h4]
        by_cases hb : b = x
        · subst hb
          simp [Ne.symm h2]
        · simp [hb]

/-- A read after a write: the byte written at its address, the old byte everywhere else. -/
theorem read_write {m : Memory} (hm : m.wf = true) (a b : Nat) (v : Byte) :
    (m.write a v).read b = if b = a then v else m.read b := read_write_from a b v hm

end Sys2Proof.Machine
end

