-- ==== Sys2Proof/Laws/Operands.lean ====
section
/-! SUPPORT. What the operand, address and fetch operations can give. -/

namespace Sys2Proof.Machine

open Sys2Proof Host

/-- The helper's formula is the rotation of bit strings, for a count of any size. -/
theorem rol_eq_rotateLeft {w : Nat} (x : BitVec w) (c : Nat) : rol x c = x.rotateLeft c := by
  apply BitVec.eq_of_toNat_eq
  rw [BitVec.toNat_rotateLeft, rol, BitVec.toNat_ofNat, Nat.or_mod_two_pow]
  congr 1
  exact Nat.mod_eq_of_lt (lt_of_le_of_lt (Nat.shiftRight_le _ _) x.isLt)

/-- Bit `i` of element `j` of a vector. -/
theorem lane_getLsbD (w : Nat) (v : Vec) (j i : Nat) :
    (lane w v j).getLsbD i = (decide (i < w) && v.getLsbD (j * w + i)) := by
  simp [lane, BitVec.getLsbD_extractLsb']

@[simp] theorem readRM_reg (s : State) (p : Prefixes) (len : Nat) (e : ElemSize) (vl : VL) (m : Masking) (r : VReg) :
    s.readRM p len e vl m (.reg r) = .next (s.readZmm r) := rfl

/-- The bytes fetched are the bytes of memory, each of them fetchable. -/
theorem getElem?_fetchFrom {s : State} {n a k : Nat} {b : Byte} (h : (s.fetchFrom a n)[k]? = some b) :
    b = s.mem.read (a + k) ∧ s.fetchable (a + k) = true ∧ k < n := by
  induction n generalizing a k with
  | zero => simp [State.fetchFrom] at h
  | succ n ih =>
    unfold State.fetchFrom at h
    split at h
    · next hf =>
      cases k with
      | zero => simp at h; exact ⟨h.symm, hf, by omega⟩
      | succ k =>
        obtain ⟨h1, h2, h3⟩ := ih (by simpa using h)
        rw [show a + (k + 1) = a + 1 + k by omega]
        exact ⟨h1, h2, by omega⟩
    · simp at h

/-- A byte that can be fetched is inside the address space. -/
theorem lt_of_fetchable {s : State} {a : Nat} (h : s.fetchable a = true) : a < 2 ^ s.addressWidth := by
  simp only [State.fetchable, Bool.and_eq_true, decide_eq_true_eq] at h
  exact h.1.1

/-- The effective address is below the address size's bound. -/
theorem effectiveAddress_lt (s : State) (p : Prefixes) (len n : Nat) (a : Addr) :
    (s.effectiveAddress p len n a).toNat < 2 ^ s.addressSize p := by
  unfold State.effectiveAddress
  rw [BitVec.toNat_ofNat]
  exact lt_of_le_of_lt (Nat.mod_le _ _) (Nat.mod_lt _ (by positivity))

/-- A linear address is inside the address space. -/
theorem linearAddress_lt (s : State) (p : Prefixes) (len n : Nat) (a : Addr) :
    s.linearAddress p len n a < 2 ^ s.addressWidth := Nat.mod_lt _ (by positivity)

/-- The next pc is inside the address space. -/
theorem nextPc_toNat (s : State) (len : Nat) : (s.nextPc len).toNat = (s.pc.toNat + len) % 2 ^ s.addressWidth := by
  unfold State.nextPc
  rw [BitVec.toNat_ofNat]
  apply Nat.mod_eq_of_lt
  refine lt_of_lt_of_le (Nat.mod_lt _ (by positivity)) (Nat.pow_le_pow_right (by norm_num) ?_)
  unfold State.addressWidth
  split <;> omega

end Sys2Proof.Machine
end

