-- ==== Sys2Proof/Laws/PerInstr.lean ====
section
/-! SUPPORT. Laws of the instructions as syntax, one lemma for each constructor of Instr. -/

namespace Sys2Proof

theorem disp_bytes_length (d : Disp) : d.bytes.length = d.size := by cases d <;> rfl

theorem prefixes_bytes_length (p : Prefixes) : p.bytes.length = p.count := by cases p <;> rfl

theorem rm_tail_length (rm : RM) : rm.code.tail.length = rm.tailSize := by
  cases rm with
  | reg r => rfl
  | mem a bcast =>
    cases a with
    | disp32 v => rfl
    | base b d => exact disp_bytes_length d
    | sib ob oi scale d =>
      simp only [RM.code, Addr.code, RM.tailSize, List.length_cons, disp_bytes_length]
      omega

theorem encodeImm_length (e : ElemSize) (vl : VL) (o : ImmForm) : (encodeImm e vl o).length = o.ilen := by
  simp only [encodeImm, ImmForm.ilen, List.length_append, List.length_cons, prefixes_bytes_length, rm_tail_length,
    List.length_nil]
  omega

theorem encodeVar_length (e : ElemSize) (vl : VL) (o : VarForm) : (encodeVar e vl o).length = o.ilen := by
  simp only [encodeVar, VarForm.ilen, List.length_append, List.length_cons, prefixes_bytes_length, rm_tail_length]
  omega

namespace Laws.Length

/-- An instruction's encoding has `ILEN` bytes (30_encoding.md R65). -/
def Statement (i : Instr) : Prop := (encode i).length = i.ilen

theorem vprolvd128 (o : VarForm) : Statement (.vprolvd128 o) := encodeVar_length _ _ o
theorem vprold128 (o : ImmForm) : Statement (.vprold128 o) := encodeImm_length _ _ o
theorem vprolvq128 (o : VarForm) : Statement (.vprolvq128 o) := encodeVar_length _ _ o
theorem vprolq128 (o : ImmForm) : Statement (.vprolq128 o) := encodeImm_length _ _ o
theorem vprolvd256 (o : VarForm) : Statement (.vprolvd256 o) := encodeVar_length _ _ o
theorem vprold256 (o : ImmForm) : Statement (.vprold256 o) := encodeImm_length _ _ o
theorem vprolvq256 (o : VarForm) : Statement (.vprolvq256 o) := encodeVar_length _ _ o
theorem vprolq256 (o : ImmForm) : Statement (.vprolq256 o) := encodeImm_length _ _ o
theorem vprolvd512 (o : VarForm) : Statement (.vprolvd512 o) := encodeVar_length _ _ o
theorem vprold512 (o : ImmForm) : Statement (.vprold512 o) := encodeImm_length _ _ o
theorem vprolvq512 (o : VarForm) : Statement (.vprolvq512 o) := encodeVar_length _ _ o
theorem vprolq512 (o : ImmForm) : Statement (.vprolq512 o) := encodeImm_length _ _ o

end Laws.Length

end Sys2Proof
end

