-- ==== Sys2Proof/Tests/Slice0.lean ====
section
/-! SUPPORT. Tests of the model. Expected bytes and values are those of 95_test_vectors.md, named by its tables and vector
numbers, or hand calculation from the rule named. -/

namespace Sys2Proof.Tests

open Sys2Proof Sys2Proof.Machine Host

/-! ## Helpers -/

/-- A vector from its elements, element 0 first; the elements above are 0. -/
def vec {w : Nat} : List (BitVec w) → Vec
  | [] => 0
  | x :: xs => (vec xs <<< w) ||| x.setWidth 512

/-- The launch state with `bs` at address 0, where its pc is. -/
def code (bs : List Byte) : State := State.reset.setMem (Memory.writeBytes [] 0 bs)

/-- A state with an opmask register set. -/
def setK (s : State) (r : KReg) (v : BitVec Config.kw) : State := { s with k := s.k.set r.toNat v r.isLt }

/-- A state with a general register set. -/
def setGpr (s : State) (r : GReg) (v : Word) : State := { s with gpr := s.gpr.set r.toNat v r.isLt }

/-- A state with bytes stored at an address. -/
def setBytes (s : State) (a : Nat) (bs : List Byte) : State := s.setMem (s.mem.writeBytes a bs)

/-- A state in `Mode32`: long mode inactive, a 32-bit code segment (10_state.md R23). -/
def mode32 (s : State) : State := { s with efer := 0, csL := false, csD := true }

/-- The next state of an outcome, if it has one. -/
def nextOf {α : Type} : Outcome α Fault Refusal → Option α
  | .next a => some a
  | _ => none

/-- The fault of an outcome, if it has one. -/
def faultOf {α : Type} : Outcome α Fault Refusal → Option Fault
  | .fault f => some f
  | _ => none

/-- The refusal of an outcome, if it has one. -/
def refusalOf {α : Type} : Outcome α Fault Refusal → Option Refusal
  | .refused r => some r
  | _ => none

/-- A register and the pc after an outcome. -/
def after (r : VReg) (o : Outcome State Fault Refusal) : Option (Vec × Word) :=
  (nextOf o).map fun t => (t.readZmm r, t.pc)

theorem completes {α : Type} {o : Outcome α Fault Refusal} (h : (nextOf o).isSome = true) : ∃ t, o = .next t := by
  cases o <;> simp_all [nextOf]

theorem faults {α : Type} {o : Outcome α Fault Refusal} {f : Fault} (h : faultOf o = some f) : o = .fault f := by
  cases o <;> simp_all [faultOf]

theorem refuses {α : Type} {o : Outcome α Fault Refusal} {r : Refusal} (h : refusalOf o = some r) : o = .refused r := by
  cases o <;> simp_all [refusalOf]

/-- All bits one. -/
def ones : Vec := BitVec.allOnes 512

/-! ## WellFormed refuses an ill-formed term, check by check -/

/-- A well-formed immediate form to spoil. -/
def immBase : ImmForm := ⟨.noPrefix, 1, .unmasked, .reg 2, 8⟩

/-- A well-formed variable form to spoil. -/
def varBase : VarForm := ⟨.noPrefix, 1, .unmasked, 2, .reg 3⟩

theorem test_wf_accepts : (Instr.vprold512 immBase).wf .mode64 = true ∧ (Instr.vprolvd512 varBase).wf .mode32 = true := by
  decide

theorem test_wf_mode : (Instr.vprold512 immBase).wf .real = false ∧ (Instr.vprold512 immBase).wf .virtual8086 = false ∧
    (Instr.vprold512 immBase).wf .code16 = false := by decide

theorem test_wf_merging_k0 : (Instr.vprold512 { immBase with mask := .merging 0 }).wf .mode64 = false := by decide

theorem test_wf_zeroing_k0 : (Instr.vprolvd512 { varBase with mask := .zeroing 0 }).wf .mode64 = false := by decide

theorem test_wf_base_needs_sib :
    (Instr.vprold512 { immBase with src := .mem (.base 4 (.d8 0)) false }).wf .mode64 = false ∧
    (Instr.vprold512 { immBase with src := .mem (.base 12 (.d8 0)) false }).wf .mode64 = false := by decide

theorem test_wf_base_needs_disp :
    (Instr.vprold512 { immBase with src := .mem (.base 5 .noDisp) false }).wf .mode64 = false ∧
    (Instr.vprold512 { immBase with src := .mem (.base 13 .noDisp) false }).wf .mode64 = false := by decide

theorem test_wf_sib_base_needs_disp :
    (Instr.vprold512 { immBase with src := .mem (.sib (some 5) none 0 .noDisp) false }).wf .mode64 = false := by decide

theorem test_wf_sib_index_4 :
    (Instr.vprold512 { immBase with src := .mem (.sib (some 0) (some 4) 0 .noDisp) false }).wf .mode64 = false := by decide

theorem test_wf_sib_no_base_needs_disp32 :
    (Instr.vprold512 { immBase with src := .mem (.sib none (some 1) 0 .noDisp) false }).wf .mode64 = false ∧
    (Instr.vprold512 { immBase with src := .mem (.sib none (some 1) 0 (.d8 0)) false }).wf .mode64 = false := by decide

theorem test_wf_mode32_vector_registers :
    (Instr.vprold512 { immBase with dest := 8 }).wf .mode32 = false ∧
    (Instr.vprold512 { immBase with src := .reg 16 }).wf .mode32 = false ∧
    (Instr.vprolvd512 { varBase with src := 9 }).wf .mode32 = false := by decide

theorem test_wf_mode32_general_registers :
    (Instr.vprold512 { immBase with src := .mem (.base 8 .noDisp) false }).wf .mode32 = false ∧
    (Instr.vprold512 { immBase with src := .mem (.sib (some 0) (some 9) 0 .noDisp) false }).wf .mode32 = false ∧
    (Instr.vprold512 { immBase with src := .mem (.sib (some 9) none 0 .noDisp) false }).wf .mode32 = false := by decide

theorem test_wf_mode32_address_override :
    (Instr.vprold512 { immBase with prefixes := .addr }).wf .mode32 = false ∧
    (Instr.vprold512 { immBase with prefixes := .segAddr .fs }).wf .mode32 = false ∧
    (Instr.vprold512 { immBase with prefixes := .addrSeg .fs }).wf .mode32 = false := by decide

/-! ## Decoding: each constructor from bytes written out from the spec (95_test_vectors.md 4.1 to 4.3; R49 to R55) -/

theorem test_decode_vprold128 : decode .mode64 [0x62, 0xF1, 0x75, 0x08, 0x72, 0xCA, 0x08] =
    .ok (.vprold128 ⟨.noPrefix, 1, .unmasked, .reg 2, 8⟩) := by decide

theorem test_decode_vprold256 : decode .mode64 [0x67, 0x62, 0xF1, 0x75, 0x28, 0x72, 0x08, 0x03] =
    .ok (.vprold256 ⟨.addr, 1, .unmasked, .mem (.base 0 .noDisp) false, 3⟩) := by decide

theorem test_decode_vprold512 : decode .mode64 [0x62, 0x91, 0x75, 0xC5, 0x72, 0xCE, 0xFF] =
    .ok (.vprold512 ⟨.noPrefix, 17, .zeroing 5, .reg 30, 255⟩) := by decide

theorem test_decode_vprolq128 : decode .mode64 [0x62, 0xF1, 0xF5, 0x08, 0x72, 0x0C, 0x25, 0x00, 0x10, 0x00, 0x00, 0x3F] =
    .ok (.vprolq128 ⟨.noPrefix, 1, .unmasked, .mem (.sib none none 0 (.d32 0x1000)) false, 63⟩) := by decide

theorem test_decode_vprolq256 : decode .mode32 [0x62, 0xF1, 0xE5, 0x29, 0x72, 0x4D, 0xFF, 0x41] =
    .ok (.vprolq256 ⟨.noPrefix, 3, .merging 1, .mem (.base 5 (.d8 0xFF)) false, 65⟩) := by decide

theorem test_decode_vprolq512 : decode .mode64 [0x62, 0xF1, 0xF5, 0x48, 0x72, 0xCA, 0x08] =
    .ok (.vprolq512 ⟨.noPrefix, 1, .unmasked, .reg 2, 8⟩) := by decide

theorem test_decode_vprolvd128 : decode .mode64 [0x62, 0xF2, 0x65, 0x9E, 0x15, 0x54, 0x24, 0x02] =
    .ok (.vprolvd128 ⟨.noPrefix, 2, .zeroing 6, 3, .mem (.sib (some 4) none 0 (.d8 2)) true⟩) := by decide

theorem test_decode_vprolvd256 : decode .mode64 [0x62, 0x92, 0x6D, 0x28, 0x15, 0x4C, 0x48, 0xFF] =
    .ok (.vprolvd256 ⟨.noPrefix, 1, .unmasked, 2, .mem (.sib (some 8) (some 9) 1 (.d8 0xFF)) false⟩) := by decide

theorem test_decode_vprolvd512 : decode .mode64 [0x62, 0x82, 0x0D, 0xC5, 0x15, 0xC9] =
    .ok (.vprolvd512 ⟨.noPrefix, 17, .zeroing 5, 30, .reg 25⟩) := by decide

theorem test_decode_vprolvq128 : decode .mode32 [0x62, 0xF2, 0xED, 0x08, 0x15, 0x0D, 0x00, 0x10, 0x00, 0x00] =
    .ok (.vprolvq128 ⟨.noPrefix, 1, .unmasked, 2, .mem (.disp32 0x1000) false⟩) := by decide

theorem test_decode_vprolvq256 : decode .mode64 [0x62, 0xF2, 0xED, 0x3B, 0x15, 0x4C, 0xCB, 0x02] =
    .ok (.vprolvq256 ⟨.noPrefix, 1, .merging 3, 2, .mem (.sib (some 3) (some 1) 3 (.d8 2)) true⟩) := by decide

theorem test_decode_vprolvq512 : decode .mode64 [0x62, 0x42, 0xFD, 0x40, 0x15, 0xF8] =
    .ok (.vprolvq512 ⟨.noPrefix, 31, .unmasked, 16, .reg 8⟩) := by decide

theorem test_decode_segment_override : decode .mode64 [0x64, 0x62, 0xF2, 0x65, 0x08, 0x15, 0x12] =
    .ok (.vprolvd128 ⟨.seg .fs, 2, .unmasked, 3, .mem (.base 2 .noDisp) false⟩) := by decide

/-- The encoder writes the same bytes (95_test_vectors.md 4.1, 4.2). -/
theorem test_encode :
    encode (.vprold512 ⟨.noPrefix, 17, .zeroing 5, .reg 30, 255⟩) = [0x62, 0x91, 0x75, 0xC5, 0x72, 0xCE, 0xFF] ∧
    encode (.vprolvq512 ⟨.noPrefix, 31, .unmasked, 16, .reg 8⟩) = [0x62, 0x42, 0xFD, 0x40, 0x15, 0xF8] ∧
    encode (.vprolvd256 ⟨.noPrefix, 1, .unmasked, 2, .mem (.sib (some 8) (some 9) 1 (.d8 0xFF)) false⟩) =
      [0x62, 0x92, 0x6D, 0x28, 0x15, 0x4C, 0x48, 0xFF] := by decide

/-- 95_test_vectors.md section 5, the `Mode64` rows that are #UD. -/
theorem test_decode_invalid :
    ∀ bs ∈ ([[0x62, 0xF1, 0x75, 0x58, 0x72, 0xCA, 0x08], [0x62, 0xF1, 0x75, 0xC8, 0x72, 0xCA, 0x08],
      [0x62, 0xF1, 0x75, 0x68, 0x72, 0xCA, 0x08], [0xF0, 0x62, 0xF1, 0x75, 0x48, 0x72, 0xCA, 0x08],
      [0x66, 0x62, 0xF1, 0x75, 0x48, 0x72, 0xCA, 0x08], [0x48, 0x62, 0xF1, 0x75, 0x48, 0x72, 0xCA, 0x08]] :
        List (List Byte)), decode .mode64 bs = .invalidOpcode := by decide

/-- 95_test_vectors.md section 5, the rows that are refused. -/
theorem test_decode_refused :
    decode .mode64 [0x62, 0xF5, 0x75, 0x48, 0x72, 0xCA, 0x08] = .refused .reservedBits ∧
    decode .mode64 [0x62, 0xF1, 0x71, 0x48, 0x72, 0xCA, 0x08] = .refused .reservedBits ∧
    decode .mode64 [0x62, 0x71, 0x75, 0x48, 0x72, 0xCA, 0x08] = .unusedBits .v512 .unusedBitsFormA ∧
    decode .mode64 [0x62, 0xE1, 0x75, 0x48, 0x72, 0xCA, 0x08] = .unusedBits .v512 .unusedBitsFormA ∧
    decode .mode64 [0x62, 0xF1, 0x75, 0x48, 0x72, 0xC2, 0x08] = .refused .outOfScope ∧
    decode .mode64 [0x62, 0xF2, 0x6D, 0x48, 0x14, 0xCB] = .refused .outOfScope ∧
    decode .mode64 [0x62, 0xF1, 0x74, 0x48, 0x72, 0xCA, 0x08] = .refused .outOfScope ∧
    decode .mode64 [0x2E, 0x3E, 0x62, 0xF1, 0x75, 0x48, 0x72, 0x08, 0x08] = .refused .prefixArrangement ∧
    decode .mode32 [0x62, 0xD1, 0x75, 0x48, 0x72, 0xCA, 0x08] = .unusedBits .v512 .unusedBitsMode32 ∧
    decode .mode32 [0x62, 0x31, 0x75, 0x48, 0x72, 0xCA, 0x08] = .refused .boundInstruction ∧
    decode .mode32 [0x67, 0x62, 0xF1, 0xE5, 0x29, 0x72, 0x08, 0x41] = .refused .addressing16 ∧
    decode .mode64 [0xF0, 0x62, 0xF1, 0x75, 0x48, 0x72, 0xC2, 0x08] = .refused .outOfScope := by decide

/-- A missing last byte is no instruction, in no mode (20_memory.md R46; 60_exceptions.md R113). -/
theorem test_decode_truncated :
    ∀ m ∈ [Mode.mode64, .mode32, .real, .virtual8086], decode m [0x62, 0xF1, 0x75, 0x48, 0x72, 0xCA] = .truncated := by
  decide

/-- A table number in either byte order, and its run as the first instruction (30_encoding.md R71; log entry 10). -/
theorem test_table_word :
    decodeTableWord 48 0x629105407208 = some (.vprold512 ⟨.noPrefix, 31, .unmasked, .mem (.base 8 .noDisp) false, 0⟩) ∧
    decodeTableWord 48 0x087240059162 = decodeTableWord 48 0x629105407208 ∧
    (nextOf (step (State.reset.withFetchWord 48 0x629105407208))).isSome = true := by decide

/-! ## One element (95_test_vectors.md section 2) -/

theorem test_rol32 : rol 0x12345678#32 31 = 0x091A2B3C#32 ∧ rol 0x12345678#32 0xFFFFFFE4 = 0x23456781#32 ∧
    rol 0x12345678#32 32 = 0x12345678#32 := by decide

theorem test_rol64 : rol 0x0123456789ABCDEF#64 63 = 0x8091A2B3C4D5E6F7#64 ∧
    rol 0x0123456789ABCDEF#64 32 = 0x89ABCDEF01234567#64 ∧ rol 0x0123456789ABCDEF#64 64 = 0x0123456789ABCDEF#64 := by decide

/-! ## One step of each instruction (95_test_vectors.md section 3, section 6) -/

/-- ZMM2 of vector T1. -/
def t1Source : Vec := vec ([0x12345678, 0x12345679, 0x1234567A, 0x1234567B, 0x1234567C, 0x1234567D, 0x1234567E, 0x1234567F,
  0x12345680, 0x12345681, 0x12345682, 0x12345683, 0x12345684, 0x12345685, 0x12345686, 0x12345687] : List (BitVec 32))

/-- T1. -/
theorem test_vprold512 :
    after 1 (step ((code [0x62, 0xF1, 0x75, 0x48, 0x72, 0xCA, 0x08]).writeZmm 2 t1Source)) =
      some (vec ([0x34567812, 0x34567912, 0x34567A12, 0x34567B12, 0x34567C12, 0x34567D12, 0x34567E12, 0x34567F12,
        0x34568012, 0x34568112, 0x34568212, 0x34568312, 0x34568412, 0x34568512, 0x34568612, 0x34568712] :
          List (BitVec 32)), 7) := by decide +kernel

/-- T3. -/
theorem test_vprold512_zeroing :
    after 1 (step (setK (((code [0x62, 0xF1, 0x75, 0xC9, 0x72, 0xCA, 0x04]).writeZmm 1 ones).writeZmm 2 t1Source) 1 0xA5A5)) =
      some (vec ([0x23456781, 0, 0x234567A1, 0, 0, 0x234567D1, 0, 0x234567F1, 0x23456801, 0, 0x23456821, 0, 0, 0x23456851, 0,
        0x23456871] : List (BitVec 32)), 7) := by decide +kernel

/-- T4: merging keeps old elements below `VL` only. -/
theorem test_vprold128_merging :
    after 1 (step (setK (((code [0x62, 0xF1, 0x75, 0x09, 0x72, 0xCA, 0x01]).writeZmm 1 ones).writeZmm 2
      (vec ([0x80000000, 0x40000000, 0xC0000001, 0x00000001] : List (BitVec 32)))) 1 0b0110)) =
      some (vec ([0xFFFFFFFF, 0x80000000, 0x80000003, 0xFFFFFFFF] : List (BitVec 32)), 7) := by decide +kernel

/-- T5: a broadcast source. -/
theorem test_vprold256_broadcast :
    after 1 (step ((setGpr (setBytes (code [0x62, 0xF1, 0x75, 0x38, 0x72, 0x08, 0x01]) 0x100 [0x01, 0x00, 0x00, 0x80])
      0 0x100).writeZmm 1 ones)) =
      some (vec (List.replicate 8 0x00000003#32), 7) := by decide +kernel

/-- T10: destination and source are one register. -/
theorem test_vprolq128_in_place :
    after 1 (step (setK ((code [0x62, 0xF1, 0xF5, 0x09, 0x72, 0xC9, 0x3F]).writeZmm 1
      (vec ([0x0123456789ABCDEF, 3, 0xABCD] : List (BitVec 64)))) 1 0b10)) =
      some (vec ([0x0123456789ABCDEF, 0x8000000000000001] : List (BitVec 64)), 7) := by decide +kernel

/-- P4, its first instruction: `Mode32`, a memory source, merging. -/
theorem test_vprolq256_mode32 :
    after 3 (step (setK ((setGpr (setBytes (mode32 (code [0x62, 0xF1, 0xE5, 0x29, 0x72, 0x4D, 0xFF, 0x41])) 0x0804A000
      [0xEF, 0xCD, 0xAB, 0x89, 0x67, 0x45, 0x23, 0x01, 0x00, 0x00, 0x00, 0x00, 0x00, 0x00, 0x00, 0x80,
       0xFE, 0xFF, 0xFF, 0xFF, 0xFF, 0xFF, 0xFF, 0xFF, 0xFF, 0xFF, 0xFF, 0xFF, 0x00, 0x00, 0x00, 0x00]) 5 0x0804A020).writeZmm 3
      (vec (List.replicate 8 0xAAAAAAAAAAAAAAAA#64))) 1 0x09)) =
      some (vec ([0x02468ACF13579BDE, 0xAAAAAAAAAAAAAAAA, 0xAAAAAAAAAAAAAAAA, 0x00000001FFFFFFFE] : List (BitVec 64)), 8) := by
  decide +kernel

/-- T9: a full memory operand, its byte order. -/
theorem test_vprolq512_memory :
    after 1 (step (setGpr (setBytes (code [0x62, 0xF1, 0xF5, 0x48, 0x72, 0x08, 0x08]) 0x100
      ((List.range 64).map (BitVec.ofNat 8))) 0 0x100)) =
      some (vec ([0x0605040302010007, 0x0E0D0C0B0A09080F, 0x1615141312111017, 0x1E1D1C1B1A19181F, 0x2625242322212027,
        0x2E2D2C2B2A29282F, 0x3635343332313037, 0x3E3D3C3B3A39383F] : List (BitVec 64)), 7) := by decide +kernel

/-- T15: all three operands are one register. -/
theorem test_vprolvd128_in_place :
    after 1 (step ((code [0x62, 0xF2, 0x75, 0x08, 0x15, 0xC9]).writeZmm 1 (vec ([1, 2, 3, 4, 5] : List (BitVec 32))))) =
      some (vec ([2, 8, 24, 64] : List (BitVec 32)), 6) := by decide +kernel

/-- T8: a broadcast count, zeroing. -/
theorem test_vprolvd256_broadcast :
    after 1 (step (setK (((setGpr (setBytes (code [0x62, 0xF2, 0x6D, 0xBA, 0x15, 0x08]) 0x100 [0x2C]) 0 0x100).writeZmm 1
      ones).writeZmm 2 (vec ([0x01, 0x02, 0x04, 0x08, 0x10, 0x20, 0x40, 0x80] : List (BitVec 32)))) 2 0x0F)) =
      some (vec ([0x00001000, 0x00002000, 0x00004000, 0x00008000] : List (BitVec 32)), 6) := by decide +kernel

/-- T7: a count for each element. -/
theorem test_vprolvd512 :
    after 1 (step (((code [0x62, 0xF2, 0x6D, 0x48, 0x15, 0xCB]).writeZmm 2 (vec (List.replicate 16 0x80000001#32))).writeZmm 3
      (vec ([0x00, 0x03, 0x06, 0x09, 0x0C, 0x0F, 0x12, 0x15, 0x18, 0x1B, 0x1E, 0x21, 0x24, 0x27, 0x2A, 0x2D] :
        List (BitVec 32))))) =
      some (vec ([0x80000001, 0x0000000C, 0x00000060, 0x00000300, 0x00001800, 0x0000C000, 0x00060000, 0x00300000,
        0x01800000, 0x0C000000, 0x60000000, 0x00000003, 0x00000018, 0x000000C0, 0x00000600, 0x00003000] :
          List (BitVec 32)), 6) := by decide +kernel

/-- Two rows of the ROL64 table: counts 32 and 65; the quadword above `VL` is lost. -/
theorem test_vprolvq128 :
    after 1 (step (((code [0x62, 0xF2, 0xED, 0x08, 0x15, 0xCB]).writeZmm 2
      (vec (List.replicate 3 0x0123456789ABCDEF#64))).writeZmm 3 (vec ([32, 65, 1] : List (BitVec 64))))) =
      some (vec ([0x89ABCDEF01234567, 0x02468ACF13579BDE] : List (BitVec 64)), 6) := by decide +kernel

/-- T12: all three operands are one register. -/
theorem test_vprolvq256_in_place :
    after 1 (step ((code [0x62, 0xF2, 0xF5, 0x28, 0x15, 0xC9]).writeZmm 1
      (vec ([1, 2, 0x43, 0x8000000000000044, 9] : List (BitVec 64))))) =
      some (vec ([2, 8, 0x218, 0x448] : List (BitVec 64)), 6) := by decide +kernel

/-- T11: counts are used modulo 64. -/
theorem test_vprolvq512 :
    after 1 (step (((code [0x62, 0xF2, 0xED, 0x48, 0x15, 0xCB]).writeZmm 2
      (vec (List.replicate 8 0x0123456789ABCDEF#64))).writeZmm 3
      (vec ([0, 1, 0x20, 0x3F, 0x40, 0x41, 0xFFFFFFFFFFFFFFFF, 0x8000000000000000] : List (BitVec 64))))) =
      some (vec ([0x0123456789ABCDEF, 0x02468ACF13579BDE, 0x89ABCDEF01234567, 0x8091A2B3C4D5E6F7, 0x0123456789ABCDEF,
        0x02468ACF13579BDE, 0x8091A2B3C4D5E6F7, 0x0123456789ABCDEF] : List (BitVec 64)), 6) := by decide +kernel

/-- T16 with the address of P3: base, scaled index, compressed displacement. -/
theorem test_vprolvq512_sib :
    after 0 (step (setK (((setGpr (setGpr (setBytes (code [0x62, 0xF2, 0xF5, 0x5B, 0x15, 0x44, 0xCB, 0x02]) 0x10020
      [0x04, 0x01]) 3 0x10000) 1 2).writeZmm 0 (vec (List.replicate 8 0x1111111111111111#64))).writeZmm 1
      (vec (List.replicate 8 0x0123456789ABCDEF#64))) 3 0xF0)) =
      some (vec ([0x1111111111111111, 0x1111111111111111, 0x1111111111111111, 0x1111111111111111, 0x123456789ABCDEF0,
        0x123456789ABCDEF0, 0x123456789ABCDEF0, 0x123456789ABCDEF0] : List (BitVec 64)), 8) := by decide +kernel

/-- F1: the 128-bit form needs AVX512VL, the 512-bit form does not. -/
theorem test_f1 :
    faultOf (step { code [0x62, 0xF1, 0x75, 0x08, 0x72, 0xCA, 0x08] with hasAvx512vl := false }) = some .invalidOpcode ∧
    (nextOf (step { code [0x62, 0xF1, 0x75, 0x48, 0x72, 0xCA, 0x08] with hasAvx512vl := false })).isSome = true := by decide +kernel

/-- F2 and F3: #UD before #NM. -/
theorem test_f2_f3 :
    faultOf (step { code [0x62, 0xF1, 0x75, 0x48, 0x72, 0xCA, 0x08] with cr4 := 0, cr0 := 9 }) = some .invalidOpcode ∧
    faultOf (step { code [0x62, 0xF1, 0x75, 0x48, 0x72, 0xCA, 0x08] with cr0 := 9 }) = some .deviceNotAvailable := by decide +kernel

/-- The launch state with 4 readable bytes at 0x1000 and a page fault on the bytes after them. -/
def fourBytes (suppress : Bool) (bs : List Byte) : State :=
  setGpr { code bs with env := { Env.launch with
    faultSuppression := suppress, readRules := [⟨none, 0x1004, 0x1FFF, .page false false 0⟩] } } 0 0x1000

/-- F4: an all-zero mask with and without FaultSuppression; the first unreadable byte is at 0x1004. -/
theorem test_f4 :
    faultOf (step (fourBytes false [0x62, 0xF1, 0x75, 0x49, 0x72, 0x08, 0x01])) = some (.pageFault 0 0x1004) ∧
    after 1 (step ((fourBytes true [0x62, 0xF1, 0x75, 0x49, 0x72, 0x08, 0x01]).writeZmm 1 ones)) = some (ones, 7) := by decide +kernel

/-- F5: a broadcast form reads 4 bytes only. -/
theorem test_f5 :
    (nextOf (step (fourBytes false [0x62, 0xF1, 0x75, 0x58, 0x72, 0x08, 0x01]))).isSome = true ∧
    faultOf (step (fourBytes false [0x62, 0xF1, 0x75, 0x48, 0x72, 0x08, 0x01])) = some (.pageFault 0 0x1004) := by decide +kernel

/-- 95_test_vectors.md section 5, its last two rows: with TS set, the refusal of D14 and #UD come before #NM. -/
theorem test_task_switched :
    refusalOf (step { code [0x62, 0x71, 0x75, 0x48, 0x72, 0xCA, 0x08] with cr0 := 9 }) =
      some (.undecodable .unusedBitsFormA) ∧
    faultOf (step { code [0x62, 0xF1, 0x75, 0x68, 0x72, 0xCA, 0x08] with cr0 := 9 }) = some .invalidOpcode := by decide +kernel

/-- The first nine prototypes of 30_encoding.md R75, and the last. -/
theorem test_intrinsic_names :
    ([VL.v512, VL.v256, VL.v128].flatMap fun vl => [IntrinsicForm.plain, .mask, .maskz].map fun f =>
      (Intrinsic.mk vl .dword false f).name) =
      ["_mm512_rol_epi32", "_mm512_mask_rol_epi32", "_mm512_maskz_rol_epi32",
       "_mm256_rol_epi32", "_mm256_mask_rol_epi32", "_mm256_maskz_rol_epi32",
       "_mm_rol_epi32", "_mm_mask_rol_epi32", "_mm_maskz_rol_epi32"] ∧
    (Intrinsic.mk .v128 .qword true .maskz).name = "_mm_maskz_rolv_epi64" := by decide

/-- T4 as an intrinsic: `_mm_mask_rol_epi32`. -/
theorem test_intrinsic_value :
    (Intrinsic.mk .v128 .dword false .mask).value ones 0b0110
      (vec ([0x80000000, 0x40000000, 0xC0000001, 0x00000001] : List (BitVec 32))) 0 1 =
      vec ([0xFFFFFFFF, 0x80000000, 0x80000003, 0xFFFFFFFF] : List (BitVec 32)) := by decide +kernel

/-! ## Witnesses: for each statement with hypotheses, a state and operands that meet them together -/

/-- An unmasked immediate form with a full or broadcast memory operand at the address in RAX. -/
def immMem (bcast : Bool) : ImmForm := ⟨.noPrefix, 1, .unmasked, .mem (.base 0 .noDisp) bcast, 8⟩

/-- A masked variable form with a full or broadcast count in memory at the address in RAX. -/
def varMem (bcast : Bool) : VarForm := ⟨.noPrefix, 1, .merging 1, 2, .mem (.base 0 .noDisp) bcast⟩

/-- The launch state with the last 64 bytes of the address space as the operand. -/
def top : State := setGpr State.reset 0 0xFFFFFFFFFFFFFFC0

/-- The launch state in `Mode32` with the last 64 bytes of its address space as the operand. -/
def top32 : State := mode32 (setGpr State.reset 0 0xFFFFFFC0)

/-- Privilege level 3 with alignment checking on. -/
def checked (a : Word) : State := { setGpr State.reset 0 a with cr0 := 0x40001, rflags := 0x40002, cpl := 3 }

theorem witness_MemoryElementsAreLittleEndian :
    ∃ v, (64 : Nat) ≤ 64 ∧ memRead (setBytes State.reset 0x100 [1, 2, 3]) .ds 0x100 64 (fun _ => true) = .next v ∧
      (7 + 1) * (ElemSize.qword.bits / 8) ≤ 64 := by
  obtain ⟨v, h⟩ := completes (o := memRead (setBytes State.reset 0x100 [1, 2, 3]) .ds 0x100 64 (fun _ => true))
    (by decide +kernel)
  exact ⟨v, by decide, h, by decide⟩

theorem witness_BroadcastReadsOneElement :
    ∃ v, (State.reset.env.faultSuppression = false ∨
        ∃ j < laneCount .qword .v512, State.reset.enabled .unmasked j = true) ∧
      State.reset.readRM .noPrefix 6 .qword .v512 .unmasked (.mem (.base 0 .noDisp) true) = .next v := by
  obtain ⟨v, h⟩ := completes
    (o := State.reset.readRM .noPrefix 6 .qword .v512 .unmasked (.mem (.base 0 .noDisp) true)) (by decide +kernel)
  exact ⟨v, .inl rfl, h⟩

theorem witness_EffectiveAddressInMode64 : State.reset.mode = .mode64 := by decide

theorem witness_EffectiveAddressInMode32 : (mode32 State.reset).mode = .mode32 := by decide

theorem witness_LinearAddressAddsTheSegmentBase :
    segmentOverride .noPrefix = none ∧ segmentOverride .addr = none ∧ State.reset.mode = .mode64 ∧
    (mode32 State.reset).mode = .mode32 := by decide

/-- A full operand and a broadcast operand that end at the top of the address space, in both modes, and a register. -/
theorem witness_VproldRotatesDoublewordsByTheImmediate :
    (Runnable top .v128 ∧ OperandReadable top .noPrefix (immMem false).ilen .dword .v128 .unmasked (immMem false).src) ∧
    (Runnable top32 .v256 ∧ OperandReadable top32 .noPrefix (immMem true).ilen .dword .v256 .unmasked (immMem true).src) ∧
    (Runnable top .v512 ∧ OperandReadable top .noPrefix (immMem false).ilen .dword .v512 .unmasked (immMem false).src) ∧
    (Runnable top .v512 ∧ OperandReadable top .noPrefix immBase.ilen .dword .v512 .unmasked immBase.src) :=
  ⟨⟨by decide, (by decide +kernel : _ ∧ _ ∧ _)⟩, ⟨by decide, (by decide +kernel : _ ∧ _ ∧ _)⟩,
    ⟨by decide, (by decide +kernel : _ ∧ _ ∧ _)⟩, by decide, trivial⟩

theorem witness_VprolqRotatesQuadwordsByTheImmediate :
    (Runnable top .v128 ∧ OperandReadable top .noPrefix (immMem false).ilen .qword .v128 .unmasked (immMem false).src) ∧
    (Runnable top .v256 ∧ OperandReadable top .noPrefix (immMem true).ilen .qword .v256 .unmasked (immMem true).src) ∧
    (Runnable top32 .v512 ∧ OperandReadable top32 .noPrefix (immMem false).ilen .qword .v512 .unmasked (immMem false).src) :=
  ⟨⟨by decide, (by decide +kernel : _ ∧ _ ∧ _)⟩, ⟨by decide, (by decide +kernel : _ ∧ _ ∧ _)⟩,
    by decide, (by decide +kernel : _ ∧ _ ∧ _)⟩

theorem witness_VprolvdRotatesDoublewordsByTheirCounts :
    (Runnable top .v128 ∧
      OperandReadable top .noPrefix (varMem false).ilen .dword .v128 (.merging 1) (varMem false).count) ∧
    (Runnable top .v256 ∧
      OperandReadable top .noPrefix (varMem true).ilen .dword .v256 (.merging 1) (varMem true).count) ∧
    (Runnable top32 .v512 ∧
      OperandReadable top32 .noPrefix (varMem false).ilen .dword .v512 (.merging 1) (varMem false).count) :=
  ⟨⟨by decide, (by decide +kernel : _ ∧ _ ∧ _)⟩, ⟨by decide, (by decide +kernel : _ ∧ _ ∧ _)⟩,
    by decide, (by decide +kernel : _ ∧ _ ∧ _)⟩

theorem witness_VprolvqRotatesQuadwordsByTheirCounts :
    (Runnable top32 .v128 ∧
      OperandReadable top32 .noPrefix (varMem true).ilen .qword .v128 (.merging 1) (varMem true).count) ∧
    (Runnable top .v256 ∧
      OperandReadable top .noPrefix (varMem false).ilen .qword .v256 (.merging 1) (varMem false).count) ∧
    (Runnable top .v512 ∧
      OperandReadable top .noPrefix (varMem false).ilen .qword .v512 (.merging 1) (varMem false).count) :=
  ⟨⟨by decide, (by decide +kernel : _ ∧ _ ∧ _)⟩, ⟨by decide, (by decide +kernel : _ ∧ _ ∧ _)⟩,
    by decide, (by decide +kernel : _ ∧ _ ∧ _)⟩

theorem witness_InPlaceLoopOfImmediateFormsAgrees :
    ∃ v, checkEnabled top .v512 = .next () ∧
      top.readRM .noPrefix (immMem false).ilen .dword .v512 .unmasked (immMem false).src = .next v := by
  obtain ⟨v, h⟩ := completes
    (o := top.readRM .noPrefix (immMem false).ilen .dword .v512 .unmasked (immMem false).src) (by decide +kernel)
  exact ⟨v, rfl, h⟩

theorem witness_InPlaceLoopOfVariableFormsAgrees :
    ∃ v, checkEnabled top .v256 = .next () ∧
      top.readRM .noPrefix (varMem true).ilen .qword .v256 (.merging 1) (varMem true).count = .next v := by
  obtain ⟨v, h⟩ := completes
    (o := top.readRM .noPrefix (varMem true).ilen .qword .v256 (.merging 1) (varMem true).count) (by decide +kernel)
  exact ⟨v, rfl, h⟩

/-- `K1` has bits set, all of them at and above `KL`. -/
theorem witness_AllZeroMergingMaskOnlyZeroesTheUpperBits :
    (Instr.vprold128 { immBase with mask := .merging 1 }).operands.mask = .merging 1 ∧
    (∀ j < laneCount .dword .v128, ((setK State.reset 1 0xFFF0).readK 1).getLsbD j = false) ∧
    Runnable (setK State.reset 1 0xFFF0) .v128 ∧
    OperandReadable (setK State.reset 1 0xFFF0) .noPrefix 7 .dword .v128 (.merging 1) immBase.src :=
  ⟨rfl, by decide, by decide, trivial⟩

theorem witness_ImmediateMultipleOfTheWidthCopies :
    immBase.src = .reg 2 ∧ immBase.mask = .unmasked ∧ ({ immBase with imm := 0x40 } : ImmForm).imm.toNat % 64 = 0 ∧
    Runnable State.reset .v128 := by decide

/-- `K0` and a bit at `KL` differ. -/
theorem witness_MaskBitsAboveKLAndK0AreIgnored :
    (Instr.vprold128 { immBase with mask := .merging 1 }).wf .mode64 = true ∧
    (∀ r : KReg, r ≠ 0 → ∀ j < laneCount .dword .v128,
      (((setK (setK State.reset 1 0x10) 0 5).k)[r.toNat]'r.isLt).getLsbD j = (State.reset.readK r).getLsbD j) ∧
    ∃ t, exec (.vprold128 { immBase with mask := .merging 1 }) State.reset = .next t :=
  ⟨by decide, by decide +kernel, completes (by decide +kernel)⟩

/-- The same instruction where its operand faults and where it is refused. -/
theorem witness_MaskBitsAboveKLAndK0AreIgnored_stops :
    exec (.vprold512 (immMem false)) (fourBytes false []) = .fault (.pageFault 0 0x1004) ∧
    exec (.vprold512 (immMem false)) (setGpr State.reset 0 0xFFFFFFFFFFFFFFC1) = .refused .operandWraps ∧
    (Instr.vprold512 (immMem false)).wf .mode64 = true :=
  ⟨faults (by decide +kernel), refuses (by decide +kernel), by decide⟩

/-- A register that differs from bit 128 on. -/
theorem witness_RegisterBitsAboveVLAreIgnored :
    (∀ (r : VReg) (b : Nat), b < (Instr.vprold128 immBase).vl.bits →
      (((State.reset.writeZmm 2 (1#512 <<< 128)).zmm)[r.toNat]'r.isLt).getLsbD b = (State.reset.readZmm r).getLsbD b) ∧
    ∃ t, exec (.vprold128 immBase) State.reset = .next t :=
  ⟨by decide +kernel, completes (by decide +kernel)⟩

/-- All six status flags set; a next state, a fault and a refusal. -/
theorem witness_FlagsAndStatusDoNotInfluence :
    (0x8D7#64).getLsbD 17 = State.reset.rflags.getLsbD 17 ∧ (0x8D7#64).getLsbD 18 = State.reset.rflags.getLsbD 18 ∧
    (∃ t, exec (.vprolq512 immBase) State.reset = .next t) ∧
    exec (.vprold512 (immMem false)) (fourBytes false []) = .fault (.pageFault 0 0x1004) ∧
    exec (.vprold512 (immMem false)) (setGpr State.reset 0 0xFFFFFFFFFFFFFFC1) = .refused .operandWraps :=
  ⟨by decide, by decide, completes (by decide +kernel), faults (by decide +kernel), refuses (by decide +kernel)⟩

theorem witness_PrivilegeLevelDoesNotInfluence :
    (State.reset.am && State.reset.ac) = false ∧ ∃ t, exec (.vprolvq256 (varMem false)) State.reset = .next t :=
  ⟨by decide, completes (by decide +kernel)⟩

theorem witness_FaultSuppressionDoesNotChangeTheResult :
    State.reset.env.faultSuppression = false ∧ ∃ t, exec (.vprolvd512 (varMem false)) State.reset = .next t :=
  ⟨rfl, completes (by decide +kernel)⟩

/-- Each of the seven conditions alone. -/
theorem witness_UndefinedOpcodeWhereNotEnabled :
    ({ State.reset with cr0 := 0 } : State).mode = .real ∧
    ({ State.reset with rflags := 0x20002 } : State).mode = .virtual8086 ∧
    (({ State.reset with cr4 := 0 } : State).mode = .mode64 ∧ ({ State.reset with cr4 := 0 } : State).cr4.getLsbD 18 = false) ∧
    (({ State.reset with xcr0 := 0xE3 } : State).mode = .mode64 ∧
      ({ State.reset with xcr0 := 0xE3 } : State).xcr0.getLsbD 2 = false) ∧
    (({ State.reset with xcr0 := 0x67 } : State).mode = .mode64 ∧
      ({ State.reset with xcr0 := 0x67 } : State).xcr0.getLsbD 7 = false) ∧
    (({ State.reset with hasAvx512f := false } : State).mode = .mode64 ∧
      ({ State.reset with hasAvx512f := false } : State).hasAvx512f = false) ∧
    (({ State.reset with hasAvx512vl := false } : State).mode = .mode64 ∧ (Instr.vprold256 immBase).vl ≠ .v512 ∧
      ({ State.reset with hasAvx512vl := false } : State).hasAvx512vl = false) := by decide

theorem witness_DeviceNotAvailableWhenTaskSwitched :
    let s : State := { State.reset with cr0 := 9 }
    s.mode = .mode64 ∧ s.osEnabled = true ∧ s.hasFeatures (Instr.vprold512 immBase).vl = true ∧
    s.cr0.getLsbD 3 = true := by decide

theorem witness_RegisterFormsRaiseOnlyInvalidOpcodeOrDevice :
    (Instr.vprolvd512 varBase).operands.rm = .reg 3 ∧
    exec (.vprolvd512 varBase) { State.reset with cr0 := 0 } = .fault .invalidOpcode ∧
    exec (.vprolvd512 varBase) { State.reset with cr0 := 9 } = .fault .deviceNotAvailable ∧
    Runnable State.reset (Instr.vprolvd512 varBase).vl :=
  ⟨rfl, rfl, rfl, by decide⟩

/-- Each clause: an operand one byte too high, an operand at the edge but unaligned, and a last byte that is device memory. -/
theorem witness_MemoryOperandRefusals :
    let i : Instr := .vprold512 (immMem false)
    let d : State := { top with env := { Env.launch with devices := [⟨2 ^ 64 - 1, 2 ^ 64 - 1⟩] } }
    (Runnable (setGpr State.reset 0 0xFFFFFFFFFFFFFFC1) i.vl ∧
      2 ^ 64 < operandAddress (setGpr State.reset 0 0xFFFFFFFFFFFFFFC1) .noPrefix i.ilen .dword .v512 (.base 0 .noDisp) false +
        operandBytes .dword .v512 false) ∧
    (Runnable (checked 0xFFFFFFFFFFFFFFBF) i.vl ∧ (checked 0xFFFFFFFFFFFFFFBF).alignCheckOn = true ∧
      operandAddress (checked 0xFFFFFFFFFFFFFFBF) .noPrefix i.ilen .dword .v512 (.base 0 .noDisp) false + 64 ≤ 2 ^ 64 ∧
      operandAddress (checked 0xFFFFFFFFFFFFFFBF) .noPrefix i.ilen .dword .v512 (.base 0 .noDisp) false % 64 ≠ 0) ∧
    (Runnable d i.vl ∧ d.alignCheckOn = false ∧
      operandAddress d .noPrefix i.ilen .dword .v512 (.base 0 .noDisp) false + 64 ≤ 2 ^ 64 ∧
      d.accesses .dword .v512 .unmasked false 63 = true ∧
      d.isDevice (operandAddress d .noPrefix i.ilen .dword .v512 (.base 0 .noDisp) false + 63) = true) := by
  decide +kernel

/-- A page fault at the fifth byte, and a segment-level fault at the last byte that goes before it. -/
theorem witness_MemoryOperandFaults :
    let i : Instr := .vprold512 (immMem false)
    let p : State := fourBytes false []
    let g : State := { p with env := { p.env with readRules := ⟨some .ds, 0x103F, 0x103F, .segmentLimit⟩ :: p.env.readRules } }
    let la := operandAddress p .noPrefix i.ilen .dword .v512 (.base 0 .noDisp) false
    (Runnable p i.vl ∧ la + 64 ≤ 2 ^ p.addressWidth ∧ p.alignCheckOn = false ∧ p.isDevice (la + 4) = false ∧
      (∀ k < 64, p.segmentFaultAt .ds (la + k) = none) ∧
      p.pageFaultAt .ds (la + 4) = some (.pageFault 0 0x1004) ∧ (∀ k < 4, p.pageFaultAt .ds (la + k) = none)) ∧
    (Runnable g i.vl ∧ g.segmentFaultAt .ds (la + 63) = some .generalProtection ∧
      (∀ k < 63, g.segmentFaultAt .ds (la + k) = none)) ∧
    faultOf (exec i g) = some .generalProtection := by decide +kernel

/-- The lowest and the highest non-canonical address, through DS and through SS. -/
theorem witness_NonCanonicalOperandFaults :
    let lo : State := setGpr State.reset 0 0x0000800000000000
    let hi : State := setGpr State.reset 5 0xFFFF7FFFFFFFFFFF
    let i : Instr := .vprold512 (immMem false)
    let i5 : Instr := .vprold512 { immMem true with src := .mem (.base 5 (.d8 0)) true }
    (Runnable lo i.vl ∧ lo.mode = .mode64 ∧ lo.alignCheckOn = false ∧ lo.env.faultSuppression = false ∧
      lo.env.devices = [] ∧ operandAddress lo .noPrefix i.ilen .dword .v512 (.base 0 .noDisp) false = 2 ^ 47 ∧
      faultOf (exec i lo) = some .generalProtection) ∧
    (Runnable hi i5.vl ∧
      operandAddress hi .noPrefix i5.ilen .dword .v512 (.base 5 (.d8 0)) true = 2 ^ 64 - 2 ^ 47 - 1 ∧
      faultOf (exec i5 hi) = some .stackSegment) := by decide +kernel

theorem witness_ExceptionRecords :
    (fourBytes false []).pageFaultAt .ds 0x1004 = some (.pageFault 0 0x1004) := by decide

theorem witness_SixteenBitCodeIsRefused :
    ({ State.reset with efer := 0, csL := false } : State).mode = .code16 := by decide

theorem witness_DecodeInvertsEncode :
    (Instr.vprold512 { immBase with prefixes := .segAddr .gs, src := .mem (.sib none (some 12) 3 (.d32 0x80000001)) true }).wf
      .mode64 = true ∧
    (Instr.vprolvq128 { varBase with count := .mem (.disp32 5) false }).wf .mode32 = true := by decide

/-- The hypothesis of DecodedInstructionsAreWellFormed and of DecodeReadsOnlyTheInstruction. -/
theorem witness_DecodedInstructionsAreWellFormed :
    decode .mode32 [0x62, 0xF1, 0xE5, 0x29, 0x72, 0x4D, 0xFF, 0x41, 0xAA] =
      .ok (.vprolq256 ⟨.noPrefix, 3, .merging 1, .mem (.base 5 (.d8 0xFF)) false, 65⟩) := by decide

/-- The longest and the shortest encodings (30_encoding.md R65). -/
theorem witness_EncodingLengthBounds :
    (Instr.vprold512 { immBase with prefixes := .segAddr .gs, src := .mem (.sib none none 0 (.d32 0)) false }).wf .mode64 = true ∧
    (encode (.vprold512 { immBase with prefixes := .segAddr .gs, src := .mem (.sib none none 0 (.d32 0)) false })).length = 14 ∧
    (Instr.vprolvd512 varBase).wf .mode64 = true ∧ (encode (.vprolvd512 varBase)).length = 6 := by decide

theorem witness_FifteenBytesAreEnough : Config.maxFetch ≤ (List.replicate 15 (0 : Byte)).length := by decide

theorem witness_EncodingsSelectTheirTableRow :
    (Instr.vprolq256 immBase).wf .mode64 = true ∧
    (Instr.vprold256 immBase).tableRow ≠ (Instr.vprolq256 immBase).tableRow := by decide

/-- A number that selects a row and decodes, and the two kinds that are #UD. -/
theorem witness_TableRowsDecodeToTheirInstruction :
    (6 : Nat) ≤ (List.replicate 6 (0 : Byte)).length ∧
    (Instr.vprold512 immBase).tableRow.selects 0x62F1754872CA = true ∧
    (0x62F1754872CA#48).getLsbD 23 = false ∧ (0x62F1754872CA#48).getLsbD 20 = false ∧
    (Instr.vprold512 immBase).tableRow.selects 0x62F175C872CA = true ∧ (0x62F175C872CA#48).getLsbD 23 = true ∧
    (0x62F175C872CA#48).extractLsb' 16 3 = 0 ∧
    (Instr.vprold512 immBase).tableRow.selects 0x62F1755872CA = true ∧ (0x62F1755872CA#48).getLsbD 20 = true ∧
    (0x62F1755872CA#48).extractLsb' 6 2 = 3 := by decide

/-- The hypotheses of the three clauses of StepRunsTheDecodedInstruction. -/
theorem witness_StepRunsTheDecodedInstruction :
    let s : State := code (encode (.vprold512 immBase))
    (Instr.vprold512 immBase).wf s.mode = true ∧ BytesAtPc s (encode (.vprold512 immBase)) ∧
    s.fetchBytes = encode (.vprold512 immBase) ++ List.replicate 8 0 ∧
    decode s.mode s.fetchBytes = .ok (.vprold512 immBase) := by decide

/-- `b = 1` with a register operand behind two prefixes, and a REX byte, before a legal row, in the launch state. -/
theorem witness_IllegalEncodingsAreInvalidOpcode :
    let s : State := code [0x64, 0x67, 0x62, 0xF1, 0x75, 0x58, 0x72, 0xCA]
    let r : State := code [0x4F, 0x62, 0xF1, 0x75, 0x48, 0x72, 0xCA]
    s.mode.admitted = true ∧ (Prefixes.segAddr .fs).wf s.mode = true ∧ (0xF1#8).extractLsb' 2 2 = 0#2 ∧
    (0x75#8).extractLsb' 2 1 = 1#1 ∧ rowOf (p0mm 0xF1) (p1pp 0x75) 0x72 (fieldReg 0xCA) ≠ none ∧
    6 ≤ (List.replicate 7 (0 : Byte)).length ∧ (p2b 0x58 = 1 ∧ fieldMod 0xCA = 3) ∧
    s.fetchBytes = (Prefixes.segAddr .fs).bytes ++
      0x62 :: 0xF1 :: 0x75 :: 0x58 :: 0x72 :: 0xCA :: List.replicate 7 0 ∧
    (r.mode = .mode64 ∧ (0x40 : Byte) ≤ 0x4F ∧ (0x4F : Byte) ≤ 0x4F) ∧
    r.fetchBytes = Prefixes.noPrefix.bytes ++
      0x4F :: 0x62 :: 0xF1 :: 0x75 :: 0x48 :: 0x72 :: 0xCA :: List.replicate 8 0 := by decide

/-- Another first byte, behind a prefix; a forbidden prefix before it; BOUND in `Mode32`; a reserved bit; and no row behind a
segment override and a LOCK byte. -/
theorem witness_OtherBytesAreRefused :
    (segOverride 0x90 = none ∧ (0x90 : Byte) ≠ 0x67 ∧ forbiddenPrefix .mode64 0x90 = false ∧ (0x90 : Byte) ≠ 0x62 ∧
      (code [0x67, 0x90]).fetchBytes = Prefixes.addr.bytes ++ 0x90 :: List.replicate 13 0) ∧
    (forbiddenPrefix .mode64 0x66 = true ∧
      (code [0x66, 0x90]).fetchBytes = Prefixes.noPrefix.bytes ++ 0x66 :: 0x90 :: List.replicate 13 0) ∧
    ((mode32 (code [0x62, 0x31])).fetchBytes =
        Prefixes.noPrefix.bytes ++ (none : Option Byte).toList ++ 0x62 :: 0x31 :: 0 :: 0 :: 0 :: 0 :: List.replicate 9 0 ∧
      (mode32 (code [0x62, 0x31])).mode = .mode32 ∧ (0x31#8).extractLsb' 6 2 ≠ 3#2) ∧
    ((code [0x62, 0xF5, 0x75, 0x48, 0x72, 0xCA]).fetchBytes =
        Prefixes.noPrefix.bytes ++ (none : Option Byte).toList ++
          0x62 :: 0xF5 :: 0x75 :: 0x48 :: 0x72 :: 0xCA :: List.replicate 9 0 ∧ (0xF5#8).extractLsb' 2 2 ≠ 0#2) ∧
    ((code [0x2E, 0xF0, 0x62, 0xF1, 0x75, 0x48, 0x72, 0xC2]).fetchBytes =
        (Prefixes.seg .cs).bytes ++ (some (0xF0 : Byte)).toList ++
          0x62 :: 0xF1 :: 0x75 :: 0x48 :: 0x72 :: 0xC2 :: List.replicate 7 0 ∧
      (Prefixes.seg .cs).wf .mode64 = true ∧ forbiddenPrefix .mode64 0xF0 = true ∧ (0xF1#8).extractLsb' 2 2 = 0#2 ∧
      (0x75#8).extractLsb' 2 1 = 1#1 ∧ rowOf (p0mm 0xF1) (p1pp 0x75) 0x72 (fieldReg 0xC2) = none) := by decide

/-- Two segment overrides around 0x67; 0x67 twice; 0x67 behind a segment override in `Mode32`. -/
theorem witness_PrefixArrangementsAreRefused :
    let s : State := code [0x2E, 0x67, 0x3E]
    let a : State := code [0x67, 0x67]
    let m : State := mode32 (code [0x2E, 0x67])
    (s.mode.admitted = true ∧ (Prefixes.segAddr .cs).wf s.mode = true ∧ segmentOverride (.segAddr .cs) ≠ none ∧
      s.fetchBytes = (Prefixes.segAddr .cs).bytes ++ 0x3E :: List.replicate 12 0) ∧
    (a.mode.admitted = true ∧ Prefixes.addr.wf a.mode = true ∧ hasAddressOverride .addr = true ∧
      a.fetchBytes = Prefixes.addr.bytes ++ 0x67 :: List.replicate 13 0) ∧
    (m.mode = .mode32 ∧ (Prefixes.seg .cs).wf m.mode = true ∧
      m.fetchBytes = (Prefixes.seg .cs).bytes ++ 0x67 :: List.replicate 13 0) := by decide

/-- Form A with `R~ = 0` in `Mode64` behind 0x67, and `B~ = 0` in `Mode32`. -/
theorem witness_UnusedExtensionBitsAreRefused :
    let s : State := code [0x67, 0x62, 0x71, 0x75, 0x48, 0x72, 0xCA]
    let s32 : State := mode32 (code [0x62, 0xD1, 0x75, 0x48, 0x72, 0xCA])
    (s.mode.admitted = true ∧ Prefixes.addr.wf s.mode = true ∧ s.mode ≠ .mode32 ∧ (0x71#8).extractLsb' 2 2 = 0#2 ∧
      (0x75#8).extractLsb' 2 1 = 1#1 ∧ rowOf (p0mm 0x71) (p1pp 0x75) 0x72 (fieldReg 0xCA) = some .a ∧
      6 ≤ (List.replicate 8 (0 : Byte)).length ∧ vlOf (p2LL 0x48) = some .v512 ∧
      maskingOf (p2z 0x48) (p2aaa 0x48) = some .unmasked ∧ ¬ (p2b 0x48 = 1 ∧ fieldMod 0xCA = 3) ∧
      (0x71#8).getLsbD 7 = false ∧
      s.fetchBytes = Prefixes.addr.bytes ++ 0x62 :: 0x71 :: 0x75 :: 0x48 :: 0x72 :: 0xCA :: List.replicate 8 0) ∧
    (s32.mode = .mode32 ∧ (0xD1#8).extractLsb' 6 2 = 3#2 ∧ (0xD1#8).getLsbD 7 = true ∧ (0xD1#8).getLsbD 4 = true ∧
      (0xD1#8).getLsbD 5 = false ∧
      s32.fetchBytes = Prefixes.noPrefix.bytes ++ 0x62 :: 0xD1 :: 0x75 :: 0x48 :: 0x72 :: 0xCA :: List.replicate 9 0) := by
  decide

theorem witness_EncodingsAreInvalidOpcodeInRealMode :
    let s : State := { code (encode (.vprold512 immBase)) with cr0 := 0 }
    let v : State := { code (encode (.vprold512 immBase)) with rflags := 0x20002 }
    (s.mode = .real ∧ v.mode = .virtual8086) ∧ (Instr.vprold512 immBase).wf .mode32 = true ∧
    s.fetchBytes = encode (.vprold512 immBase) ++ List.replicate 8 0 ∧
    v.fetchBytes = encode (.vprold512 immBase) ++ List.replicate 8 0 := by decide

/-- The last byte out of reach: of an encoding in `Mode64` and in real-address mode, and of `L'L = 11` behind a segment override
and a LOCK byte. -/
theorem witness_FetchRefusalComesFirst :
    let e : Env := { Env.launch with noFetch := [⟨6, 6⟩] }
    let s : State := { code (encode (.vprold512 immBase)) with env := e }
    let r : State := { s with cr0 := 0 }
    let f : State := { code [0x64, 0xF0, 0x62, 0xF1, 0x75, 0x68, 0x72, 0xCA] with env := { e with noFetch := [⟨8, 8⟩] } }
    (s.mode.admitted = true ∧ (Instr.vprold512 immBase).wf s.mode = true ∧ 6 < (encode (.vprold512 immBase)).length ∧
      BytesAtPc s ((encode (.vprold512 immBase)).take 6) ∧ s.fetchable (s.pc.toNat + 6) = false ∧
      s.fetchBytes = (encode (.vprold512 immBase)).take 6) ∧
    (r.mode = .real ∧ (Instr.vprold512 immBase).wf .mode32 = true ∧
      BytesAtPc r ((encode (.vprold512 immBase)).take 6) ∧ r.fetchable (r.pc.toNat + 6) = false ∧
      r.fetchBytes = (encode (.vprold512 immBase)).take 6) ∧
    (r.mode ≠ .code16 ∧ Prefixes.noPrefix.wf .mode32 = true ∧ (0xF1#8).extractLsb' 6 2 = 3#2 ∧
      (0xF1#8).extractLsb' 2 2 = 0#2 ∧ (0x75#8).extractLsb' 2 1 = 1#1 ∧
      rowOf (p0mm 0xF1) (p1pp 0x75) 0x72 (fieldReg 0xCA) = some .a ∧
      r.fetchBytes = Prefixes.noPrefix.bytes ++ (none : Option Byte).toList ++ [0x62, 0xF1, 0x75, 0x48, 0x72, 0xCA]) ∧
    (f.mode = .mode64 ∧ (Prefixes.seg .fs).wf .mode64 = true ∧ forbiddenPrefix f.mode 0xF0 = true ∧
      f.fetchBytes = (Prefixes.seg .fs).bytes ++ (some (0xF0 : Byte)).toList ++ [0x62, 0xF1, 0x75, 0x68, 0x72, 0xCA]) := by
  decide

/-- Fetching stops before a withheld address, before the non-canonical hole, and at the top of the address space of `Mode32`
(20_memory.md R46; 10_state.md R18). -/
theorem test_fetch_stops :
    ({ code [1, 2, 3] with env := { Env.launch with noFetch := [⟨2, 4⟩] } } : State).fetchBytes = [1, 2] ∧
    ((setBytes State.reset 0x7FFFFFFFFFFE [1, 2, 3]).setPc 0x7FFFFFFFFFFE).fetchBytes = [1, 2] ∧
    (mode32 ((setBytes State.reset 0xFFFFFFFE [1, 2, 3]).setPc 0xFFFFFFFE)).fetchBytes = [1, 2] := by decide

/-- The hypothesis of EveryCompletedStepIsOneEnabledRotate. -/
theorem witness_EveryCompletedStepIsOneEnabledRotate : ∃ t, step (code (encode (.vprold512 immBase))) = .next t :=
  completes (by decide +kernel)

/-- A run of two steps. -/
theorem witness_RunsChangeOnlyVectorRegistersAndPc :
    ∃ t, Sys2Proof.core.run 2 (code (encode (.vprold512 immBase) ++ encode (.vprolvd128 varBase))) = .next t := by
  have h : (nextOf (Sys2Proof.core.run 2 (code (encode (.vprold512 immBase) ++ encode (.vprolvd128 varBase))) :
      Outcome State Fault Refusal)).isSome = true := by decide +kernel
  exact completes h

/-- A step in `Mode32` at the top of the address space, whose pc wraps to 0. -/
theorem witness_StepKeepsTheStateInvariant :
    let s : State := mode32 ((setBytes State.reset 0xFFFFFFFA (encode (.vprolvd512 varBase))).setPc 0xFFFFFFFA)
    Inv s ∧ after 1 (step s) = some (0, 0) := by
  refine ⟨⟨by decide +kernel, by decide +kernel⟩, by decide +kernel⟩

theorem witness_IntrinsicsAreTheirInstructions :
    (1 : KReg) ≠ 0 ∧ Runnable State.reset (Intrinsic.mk .v256 .qword true .mask).vl := by decide

end Sys2Proof.Tests
end

/-! ## States that the checks, the addresses and memory cannot tell apart -/

namespace Sys2Proof.Machine

open Sys2Proof Host

/-! ### States that differ in vector registers, opmask registers and status only -/

/-- `s'` answers as `s` does wherever an instruction is checked, an address is formed or memory is read: they differ in the
vector and opmask registers, the flags, the status registers and CR2 only, and not in what is folded from the flags
(10_state.md R23). -/
def SameControl (s s' : State) : Prop :=
  s'.mode = s.mode ∧ s'.alignCheckOn = s.alignCheckOn ∧
    s' = { s with zmm := s'.zmm, k := s'.k, rflags := s'.rflags, mxcsr := s'.mxcsr, x87Status := s'.x87Status, cr2 := s'.cr2 }

/-- Opmask registers are no part of what `SameControl` compares. -/
theorem sameControl_k (s : State) (k' : Vector (BitVec Config.kw) 8) : SameControl s { s with k := k' } :=
  ⟨rfl, rfl, rfl⟩

/-- Vector registers are no part of what `SameControl` compares. -/
theorem sameControl_zmm (s : State) (zmm' : Vector Vec 32) : SameControl s { s with zmm := zmm' } :=
  ⟨rfl, rfl, rfl⟩

/-- Of the flags and the status registers, `SameControl` compares VM and AC only (10_state.md R23). -/
theorem sameControl_status (s : State) {rflags' : Word} (cr2' : Word) (mxcsr' : BitVec 32) (x87' : BitVec 16)
    (hvm : rflags'.getLsbD 17 = s.rflags.getLsbD 17) (hac : rflags'.getLsbD 18 = s.rflags.getLsbD 18) :
    SameControl s { s with rflags := rflags', cr2 := cr2', mxcsr := mxcsr', x87Status := x87' } := by
  refine ⟨?_, ?_, rfl⟩
  · have hvm' : State.vm { s with rflags := rflags', cr2 := cr2', mxcsr := mxcsr', x87Status := x87' } = s.vm := hvm
    unfold State.mode
    rw [hvm']
    rfl
  · simp only [State.alignCheckOn, State.ac, State.am, hac]

section

variable {s s' : State} (h : SameControl s s')
include h

theorem SameControl.eq : s' = { s with
    zmm := s'.zmm, k := s'.k, rflags := s'.rflags, mxcsr := s'.mxcsr, x87Status := s'.x87Status, cr2 := s'.cr2 } :=
  let ⟨_, _, heq⟩ := h
  heq

theorem SameControl.mode : s'.mode = s.mode := h.1

theorem SameControl.alignCheckOn : s'.alignCheckOn = s.alignCheckOn := h.2.1

theorem SameControl.osEnabled : s'.osEnabled = s.osEnabled := (congrArg State.osEnabled h.eq :)

theorem SameControl.ts : s'.ts = s.ts := (congrArg State.ts h.eq :)

theorem SameControl.hasFeatures (vl : VL) : s'.hasFeatures vl = s.hasFeatures vl := by rw [h.eq]; cases vl <;> rfl

theorem SameControl.cpl : s'.cpl = s.cpl := (congrArg State.cpl h.eq :)

theorem SameControl.gpr : s'.gpr = s.gpr := (congrArg State.gpr h.eq :)

theorem SameControl.pc : s'.pc = s.pc := (congrArg State.pc h.eq :)

theorem SameControl.segBases : s'.segBases = s.segBases := (congrArg State.segBases h.eq :)

theorem SameControl.env : s'.env = s.env := (congrArg State.env h.eq :)

theorem SameControl.mem : s'.mem = s.mem := (congrArg State.mem h.eq :)

theorem SameControl.addressWidth : s'.addressWidth = s.addressWidth := by simp only [State.addressWidth, h.mode]

theorem SameControl.checkEnabled (vl : VL) : checkEnabled s' vl = checkEnabled s vl := by
  unfold Machine.checkEnabled State.undefinedOpcode
  rw [h.mode, h.osEnabled, h.ts, h.hasFeatures]

theorem SameControl.nextPc (len : Nat) : s'.nextPc len = s.nextPc len := by
  simp only [State.nextPc, h.pc, h.addressWidth]

theorem SameControl.effectiveAddress (p : Prefixes) (len n : Nat) (a : Addr) :
    s'.effectiveAddress p len n a = s.effectiveAddress p len n a := by
  have hread : s'.readGpr = s.readGpr := by funext size r; simp only [State.readGpr, h.gpr]
  have hpart : s'.addressPart = s.addressPart := by
    funext size r
    cases r <;> simp only [State.addressPart, hread]
  cases a <;> simp only [State.effectiveAddress, State.addressSize, h.mode, h.nextPc, hread, hpart]

theorem SameControl.linearAddress (p : Prefixes) (len n : Nat) (a : Addr) :
    s'.linearAddress p len n a = s.linearAddress p len n a := by
  simp only [State.linearAddress, State.segBase, h.mode, h.segBases, h.effectiveAddress, h.addressWidth]

theorem SameControl.segmentFaultAt : s'.segmentFaultAt = s.segmentFaultAt := by
  funext g a
  unfold State.segmentFaultAt State.canonical
  rw [h.mode, h.env]

theorem SameControl.pageFaultAt : s'.pageFaultAt = s.pageFaultAt := by
  funext g a
  simp only [State.pageFaultAt, h.cpl, h.env]

theorem SameControl.isDevice : s'.isDevice = s.isDevice := by
  funext a
  simp only [State.isDevice, h.env]

end

/-! ### Only the elements and the accessed bytes of an operand count -/

/-- A packed vector depends on its own elements only. -/
theorem packLanes_congr {w : Nat} {f f' : Nat → BitVec w} {n : Nat} (h : ∀ j < n, f' j = f j) :
    packLanes w f' n = packLanes w f n := by
  induction n with
  | zero => rfl
  | succ n ih => rw [packLanes, packLanes, h n (by omega), ih fun j hj => h j (by omega)]

/-- A read of `n` bytes depends on which of those `n` are accessed, and on no vector register, opmask register or status. -/
theorem memRead_congr {s s' : State} (h : SameControl s s') (g : Seg) (la : Nat) {n : Nat} {acc acc' : Nat → Bool}
    (hacc : ∀ i < n, acc' i = acc i) : memRead s' g la n acc' = memRead s g la n acc := by
  have haddresses : accessedAddresses la n acc' = accessedAddresses la n acc := by
    unfold accessedAddresses
    rw [List.filter_congr fun i hi => hacc i (List.mem_range.1 hi)]
  have hbytes : packLanes 8 (fun i => if acc' i then s.mem.read (la + i) else 0) n =
      packLanes 8 (fun i => if acc i then s.mem.read (la + i) else 0) n :=
    packLanes_congr fun i hi => by rw [hacc i hi]
  simp only [memRead, State.memReadable, h.addressWidth, h.alignCheckOn, h.isDevice, h.segmentFaultAt, h.pageFaultAt,
    h.mem, haddresses, hbytes]

/-- `m` enables the same elements in `s'` as in `s`, of an instruction of `n` elements. -/
def SameMask (s s' : State) (m : Masking) (n : Nat) : Prop := ∀ j < n, s'.enabled m j = s.enabled m j

/-- States with the same opmask registers enable the same elements. -/
theorem sameMask_of_k_eq {s s' : State} (h : s'.k = s.k) (m : Masking) (n : Nat) : SameMask s s' m n := by
  intro j _
  cases m <;> simp only [State.enabled, State.readK, h]

/-- The bytes that FaultSuppression lets be read are those of the enabled elements. -/
theorem accesses_congr {s s' : State} (h : SameControl s s') {e : ElemSize} {vl : VL} {m : Masking}
    (hm : SameMask s s' m (laneCount e vl)) (bcast : Bool) {i : Nat} (hi : i < operandBytes e vl bcast) :
    s'.accesses e vl m bcast i = s.accesses e vl m bcast i := by
  cases bcast with
  | true =>
    have hany : (List.range (laneCount e vl)).any (fun j => s'.enabled m j) =
        (List.range (laneCount e vl)).any fun j => s.enabled m j := by
      rw [Bool.eq_iff_iff, List.any_eq_true, List.any_eq_true]
      exact exists_congr fun j => and_congr_right fun hj => by rw [hm j (List.mem_range.1 hj)]
    simp only [State.accesses, h.env, hany, if_true]
  | false =>
    have hlane : i * 8 / e.bits < laneCount e vl := by
      rw [Nat.div_lt_iff_lt_mul (bits_pos e), laneCount_mul_bits]
      cases vl <;> simp [operandBytes, VL.bits] at hi ⊢ <;> omega
    simp only [State.accesses, h.env, hm _ hlane, Bool.false_eq_true, if_false]

/-- A memory operand is the same in states that differ in vector registers and unused mask bits only. -/
theorem readRM_mem_congr {s s' : State} (h : SameControl s s') (p : Prefixes) (len : Nat) {e : ElemSize} {vl : VL}
    {m : Masking} (hm : SameMask s s' m (laneCount e vl)) (a : Addr) (bcast : Bool) :
    s'.readRM p len e vl m (.mem a bcast) = s.readRM p len e vl m (.mem a bcast) := by
  change memRead s' _ (s'.linearAddress p len _ a) _ _ = memRead s _ (s.linearAddress p len _ a) _ _
  rw [h.linearAddress]
  exact memRead_congr h _ _ fun i hi => accesses_congr h hm bcast hi

/-- The new destination register depends on the enabled elements only. -/
theorem maskedResult_congr {s s' : State} {e : ElemSize} {vl : VL} {m : Masking} (d : VReg)
    {rotated rotated' : Nat → BitVec e.bits} (hm : SameMask s s' m (laneCount e vl))
    (hrot : ∀ j < laneCount e vl, rotated' j = rotated j)
    (hold : ∀ j < laneCount e vl, lane e.bits (s'.readZmm d) j = lane e.bits (s.readZmm d) j) :
    s'.maskedResult e vl m d rotated' = s.maskedResult e vl m d rotated :=
  packLanes_congr fun j hj => by simp only [State.maskedLane, hm j hj, hrot j hj, hold j hj]

end Sys2Proof.Machine

/-! ## What an instruction does, said once for all twelve rows -/

namespace Sys2Proof

/-- The model has the encodings in `Mode64` and `Mode32`. -/
theorem Mode.admitted_iff {m : Mode} : m.admitted = true ↔ m = .mode64 ∨ m = .mode32 := by cases m <;> simp [Mode.admitted]

/-- The operands of an instruction: of an immediate form (Op/En A) or of a variable form (Op/En B) (30_encoding.md R55, R56). -/
def Instr.form : Instr → ImmForm ⊕ VarForm
  | .vprolvd128 o => .inr o
  | .vprold128 o => .inl o
  | .vprolvq128 o => .inr o
  | .vprolq128 o => .inl o
  | .vprolvd256 o => .inr o
  | .vprold256 o => .inl o
  | .vprolvq256 o => .inr o
  | .vprolq256 o => .inl o
  | .vprolvd512 o => .inr o
  | .vprold512 o => .inl o
  | .vprolvq512 o => .inr o
  | .vprolq512 o => .inl o

/-- The row of an instruction is that of its operand encoding, element width and vector length (30_encoding.md R63). -/
theorem Instr.eq_of_form (i : Instr) : i = i.form.elim (Instr.ofImm i.elem i.vl) (Instr.ofVar i.elem i.vl) := by
  cases i <;> rfl

theorem Instr.ilen_eq (i : Instr) : i.ilen = i.form.elim ImmForm.ilen VarForm.ilen := by cases i <;> rfl

theorem Instr.wf_eq (m : Mode) (i : Instr) :
    i.wf m = (m.admitted && i.form.elim (ImmForm.wf m) (VarForm.wf m)) := by cases i <;> rfl

theorem ImmForm.wf_iff {m : Mode} {o : ImmForm} : o.wf m = true ↔
    o.prefixes.wf m = true ∧ VReg.inMode m o.dest = true ∧ o.mask.wf = true ∧ o.src.wf m = true := by
  simp only [ImmForm.wf, Bool.and_eq_true, and_assoc]

theorem VarForm.wf_iff {m : Mode} {o : VarForm} : o.wf m = true ↔
    o.prefixes.wf m = true ∧ VReg.inMode m o.dest = true ∧ o.mask.wf = true ∧ VReg.inMode m o.src = true ∧
      o.count.wf m = true := by
  simp only [VarForm.wf, Bool.and_eq_true, and_assoc]

theorem Instr.operands_eq (i : Instr) : i.operands = i.form.elim ImmForm.operands VarForm.operands := by cases i <;> rfl

theorem encode_eq (i : Instr) : encode i = i.form.elim (encodeImm i.elem i.vl) (encodeVar i.elem i.vl) := by
  cases i <;> rfl

end Sys2Proof

namespace Sys2Proof.Machine

open Sys2Proof Host

/-- The rotated element `j` of an immediate form whose operand's bits are `v` (40_rotate_left.md R85, R87). -/
def immRotated (o : ImmForm) (e : ElemSize) (v : Vec) (j : Nat) : BitVec e.bits :=
  rol (rmLane e o.src v j) o.imm.toNat

/-- The rotated element `j` of a variable form whose count operand's bits are `v` (40_rotate_left.md R86, R88). -/
def varRotated (o : VarForm) (e : ElemSize) (s : State) (v : Vec) (j : Nat) : BitVec e.bits :=
  rol (lane e.bits (s.readZmm o.src) j) (rmLane e o.count v j).toNat

/-- The rotated element `j` of an instruction run in `s`, `v` the bits of its `ModRM:r/m` operand. -/
def rotatedElement (s : State) (i : Instr) (v : Vec) (j : Nat) : BitVec i.elem.bits :=
  match i.form with
  | .inl o => immRotated o i.elem v j
  | .inr o => varRotated o i.elem s v j

/-- The new destination register of an instruction run in `s`, `v` the bits of its `ModRM:r/m` operand. -/
def newDest (s : State) (i : Instr) (v : Vec) : Vec :=
  s.maskedResult i.elem i.vl i.operands.mask i.operands.dest (rotatedElement s i v)

/-- The read of an instruction's `ModRM:r/m` operand. -/
def readOperand (s : State) (i : Instr) : Outcome Vec Fault Refusal :=
  s.readRM i.operands.prefixes i.ilen i.elem i.vl i.operands.mask i.operands.rm

/-- Every instruction checks, reads its operand, and completes. -/
theorem exec_eq (i : Instr) (s : State) :
    exec i s = andThen (checkEnabled s i.vl) fun _ =>
      andThen (readOperand s i) fun v => .next (s.complete i.ilen i.operands.dest (newDest s i v)) := by
  cases i <;> rfl

/-- What an instruction does when it completes. -/
theorem exec_eq_next {i : Instr} {s t : State} :
    exec i s = .next t ↔ checkEnabled s i.vl = .next () ∧
      ∃ v, readOperand s i = .next v ∧ t = s.complete i.ilen i.operands.dest (newDest s i v) := by
  rw [exec_eq, andThen_eq_next]
  simp only [andThen_eq_next, Outcome.next.injEq, eq_comm (b := t)]
  exact ⟨fun ⟨_, hc, h⟩ => ⟨hc, h⟩, fun ⟨hc, h⟩ => ⟨(), hc, h⟩⟩

/-- An instruction passes the checks exactly under the launch premises. -/
theorem checkEnabled_eq_next_iff_runnable {s : State} {vl : VL} : checkEnabled s vl = .next () ↔ Runnable s vl := by
  rw [checkEnabled_eq_next, Mode.admitted_iff]

/-! ## What completing leaves alone -/

/-- A completed step is the old state with other vector registers and another pc. -/
theorem complete_frame (s : State) (len : Nat) (d : VReg) (v : Vec) :
    s.complete len d v = { s with zmm := (s.complete len d v).zmm, pc := s.nextPc len } := rfl

/-- A completed step writes its destination register and the pc only. -/
theorem complete_onlyWrites (s : State) (len : Nat) (d : VReg) (v : Vec) : OnlyWrites d s (s.complete len d v) where
  zmm _ hr := readZmm_complete_other s len v hr
  k := rfl
  gpr := rfl
  segBases := rfl
  rflags := rfl
  mxcsr := rfl
  x87Status := rfl
  cr0 := rfl
  cr2 := rfl
  cr4 := rfl
  xcr0 := rfl
  efer := rfl
  csL := rfl
  csD := rfl
  cpl := rfl
  hasAvx512f := rfl
  hasAvx512vl := rfl
  env := rfl
  mem := rfl
  bytes _ := rfl

/-- A completed step keeps the canonical form of memory and leaves the pc inside the address space. -/
theorem complete_inv {s : State} (h : Inv s) (len : Nat) (d : VReg) (v : Vec) : Inv (s.complete len d v) := by
  obtain ⟨hmem, -⟩ := h
  refine ⟨hmem, ?_⟩
  rw [complete_pc, nextPc_toNat]
  exact Nat.mod_lt _ (by positivity)

/-- The new destination register is 0 at and above the vector length (40_rotate_left.md R82). -/
theorem newDest_getLsbD_of_ge (s : State) (i : Instr) (v : Vec) {b : Nat} (hb : i.vl.bits ≤ b) :
    (newDest s i v).getLsbD b = false := by
  have hlanes : ¬ b < laneCount i.elem i.vl * i.elem.bits := by rw [laneCount_mul_bits]; omega
  rw [newDest, State.maskedResult, packLanes_getLsbD (bits_pos _)]
  simp [hlanes]

/-- A completed instruction gives the old state with other vector registers and another pc. -/
theorem exec_frame {i : Instr} {s t : State} (h : exec i s = .next t) : t = { s with zmm := t.zmm, pc := t.pc } := by
  obtain ⟨-, v, -, rfl⟩ := exec_eq_next.1 h
  exact complete_frame s _ _ _

/-- A completed step gives the old state with other vector registers and another pc. -/
theorem step_frame {s t : State} (h : step s = .next t) : t = { s with zmm := t.zmm, pc := t.pc } := by
  obtain ⟨i, -, hexec⟩ := step_eq_next.1 h
  exact exec_frame hexec

/-! ## Runs -/

/-- A run of one more step that completes is a completed step and a completed run after it. -/
theorem run_succ_eq_next {M : Core} {n : Nat} {s t : M.State} :
    M.run (n + 1) s = .next t ↔ ∃ s', M.step s = .next s' ∧ M.run n s' = .next t := by
  rw [Core.run]
  cases M.step s <;> simp

/-- A run that completes gives the old state with other vector registers and another pc. -/
theorem run_frame {n : Nat} {s t : State} (h : Sys2Proof.core.run n s = .next t) :
    t = { s with zmm := t.zmm, pc := t.pc } := by
  induction n generalizing s with
  | zero => cases h; rfl
  | succ n ih =>
    obtain ⟨s', hstep, hrun⟩ := run_succ_eq_next.1 h
    have ht := ih hrun
    rw [step_frame hstep] at ht
    exact ht

/-- Settles O50, by induction on the number of steps (`run_frame`). -/
theorem runsChangeOnlyVectorRegistersAndPc : Obligations.RunsChangeOnlyVectorRegistersAndPc := by
  intro n s t h
  have hframe := run_frame h
  have hmem : t.mem = s.mem := by rw [hframe]
  exact ⟨hframe, fun a => by rw [hmem]⟩

/-- Settles O51: a completed step is `State.complete`, which keeps memory and reduces the pc. -/
theorem stepKeepsTheStateInvariant : Obligations.StepKeepsTheStateInvariant := by
  intro s t hinv h
  obtain ⟨i, -, hexec⟩ := step_eq_next.1 h
  obtain ⟨-, v, -, rfl⟩ := exec_eq_next.1 hexec
  exact complete_inv hinv _ _ _

end Sys2Proof.Machine

/-! ## What an instruction does not depend on -/

namespace Sys2Proof.Machine

open Sys2Proof Host

/-! ### Only the elements of a register count -/

/-- The two vectors agree on every bit below the vector length. -/
def AgreeBelow (vl : VL) (v v' : Vec) : Prop := ∀ b < vl.bits, v'.getLsbD b = v.getLsbD b

/-- The elements of a vector length lie below it. -/
theorem AgreeBelow.lane {vl : VL} {v v' : Vec} (h : AgreeBelow vl v v') {e : ElemSize} {j : Nat}
    (hj : j < laneCount e vl) : lane e.bits v' j = lane e.bits v j := by
  apply BitVec.eq_of_getLsbD_eq
  intro b hb
  have htop : (j + 1) * e.bits ≤ vl.bits := by
    rw [← laneCount_mul_bits e vl]
    exact Nat.mul_le_mul_right _ hj
  have hlow : j * e.bits + b < vl.bits := by
    rw [Nat.succ_mul] at htop
    omega
  rw [lane_getLsbD, lane_getLsbD, h _ hlow]

theorem laneCount_pos (e : ElemSize) (vl : VL) : 0 < laneCount e vl := by cases e <;> cases vl <;> decide

/-- The element of an operand that element `j` uses lies below the vector length. -/
theorem AgreeBelow.rmLane {vl : VL} {v v' : Vec} (h : AgreeBelow vl v v') {e : ElemSize} (rm : RM) {j : Nat}
    (hj : j < laneCount e vl) : rmLane e rm v' j = rmLane e rm v j := by
  simp only [Machine.rmLane, h.lane hj, h.lane (laneCount_pos e vl)]

/-- A rotated element depends on register bits below the vector length only. -/
theorem rotatedElement_congr {i : Instr} {s s' : State} (hregs : ∀ r, AgreeBelow i.vl (s.readZmm r) (s'.readZmm r))
    {v v' : Vec} (hv : AgreeBelow i.vl v v') {j : Nat} (hj : j < laneCount i.elem i.vl) :
    rotatedElement s' i v' j = rotatedElement s i v j := by
  unfold rotatedElement
  cases i.form with
  | inl o => simp only [immRotated, hv.rmLane o.src hj]
  | inr o => simp only [varRotated, hv.rmLane o.count hj, (hregs o.src).lane hj]

/-! ### Opmask registers, flags and status -/

/-- An instruction run in a state with the same vector registers that differs in unused mask bits and status only: the same
vector registers and pc, the same fault, the same refusal. -/
theorem exec_congr {s s' : State} (h : SameControl s s') (hzmm : s'.zmm = s.zmm) {i : Instr}
    (hm : SameMask s s' i.operands.mask (laneCount i.elem i.vl)) :
    exec i s' = andThen (exec i s) fun t => .next { s' with zmm := t.zmm, pc := t.pc } := by
  have hreg (r : VReg) : s'.readZmm r = s.readZmm r := by simp only [State.readZmm, hzmm]
  have hread : readOperand s' i = readOperand s i := by
    unfold readOperand
    cases i.operands.rm with
    | reg r => simp only [readRM_reg, hreg]
    | mem a bcast => exact readRM_mem_congr h _ _ hm a bcast
  have hregs (r : VReg) : AgreeBelow i.vl (s.readZmm r) (s'.readZmm r) := fun _ _ => by rw [hreg]
  have hdest (v : Vec) : newDest s' i v = newDest s i v :=
    maskedResult_congr _ hm (fun j hj => rotatedElement_congr hregs (fun _ _ => rfl) hj) fun j _ => by rw [hreg]
  have hdone (v : Vec) (len : Nat) (d : VReg) :
      s'.complete len d v = { s' with zmm := (s.complete len d v).zmm, pc := (s.complete len d v).pc } := by
    rw [complete_frame s', complete_zmm, complete_zmm, complete_pc, hzmm, h.nextPc]
  simp only [exec_eq, h.checkEnabled, hread, hdest, hdone]
  cases checkEnabled s i.vl with
  | fault f => rfl
  | refused r => rfl
  | next u =>
    simp only [andThen_next]
    cases readOperand s i <;> rfl

/-- A well-formed instruction's writemask register is not K0 (30_encoding.md R62). -/
theorem mask_wf_of_wf {m : Mode} {i : Instr} (h : i.wf m = true) : i.operands.mask.wf = true := by
  rw [Instr.wf_eq, Bool.and_eq_true] at h
  obtain ⟨-, hform⟩ := h
  rw [Instr.operands_eq]
  cases hi : i.form with
  | inl o =>
    rw [hi] at hform
    obtain ⟨-, -, hmask, -⟩ := ImmForm.wf_iff.1 hform
    exact hmask
  | inr o =>
    rw [hi] at hform
    obtain ⟨-, -, hmask, -⟩ := VarForm.wf_iff.1 hform
    exact hmask

/-- Opmask registers that agree on bits `n-1:0` of K1 to K7 enable the same elements. -/
theorem sameMask_of_low_bits_eq {s : State} {k' : Vector (BitVec Config.kw) 8} {m : Masking} {n : Nat} (hwf : m.wf = true)
    (h : ∀ r : KReg, r ≠ 0 → ∀ j < n, (k'[r.toNat]'r.isLt).getLsbD j = (s.readK r).getLsbD j) :
    SameMask s { s with k := k' } m n := by
  intro j hj
  cases m with
  | unmasked => rfl
  | merging r => exact h r (by simpa [Masking.wf] using hwf) j hj
  | zeroing r => exact h r (by simpa [Masking.wf] using hwf) j hj

/-- Settles O19: the enabled elements and the accessed bytes are those of bits `KL-1:0` of K1 to K7 (`exec_congr`). -/
theorem maskBitsAboveKLAndK0AreIgnored : Obligations.MaskBitsAboveKLAndK0AreIgnored := by
  intro i m s k' hwf hk
  have hexec := exec_congr (sameControl_k s k') rfl (i := i) (sameMask_of_low_bits_eq (mask_wf_of_wf hwf) hk)
  refine ⟨fun t ht => ?_, fun f hf => by rw [hexec, hf]; rfl, fun r hr => by rw [hexec, hr]; rfl⟩
  rw [hexec, ht, exec_frame ht]
  rfl

/-- Settles O21: of the changed registers only VM and AC, which are held, are ever read (`sameControl_status`). -/
theorem flagsAndStatusDoNotInfluence : Obligations.FlagsAndStatusDoNotInfluence := by
  intro i s rflags' cr2' mxcsr' x87' hvm hac
  have hexec := exec_congr (sameControl_status s cr2' mxcsr' x87' hvm hac) rfl (i := i) (sameMask_of_k_eq rfl _ _)
  refine ⟨fun t ht => ?_, fun f hf => by rw [hexec, hf]; rfl, fun r hr => by rw [hexec, hr]; rfl⟩
  rw [hexec, ht, exec_frame ht]
  rfl

/-! ### Vector register bits at and above the vector length -/

/-- States whose registers agree below the vector length read operands that agree below it. -/
theorem readOperand_agreeBelow {i : Instr} {s s' : State} (h : SameControl s s') (hk : s'.k = s.k)
    (hregs : ∀ r, AgreeBelow i.vl (s.readZmm r) (s'.readZmm r)) {v : Vec} (hread : readOperand s i = .next v) :
    ∃ v', readOperand s' i = .next v' ∧ AgreeBelow i.vl v v' := by
  unfold readOperand at hread ⊢
  cases hrm : i.operands.rm with
  | reg r =>
    rw [hrm, readRM_reg, Outcome.next.injEq] at hread
    subst hread
    exact ⟨_, rfl, hregs r⟩
  | mem a bcast =>
    rw [hrm] at hread
    exact ⟨v, (readRM_mem_congr h _ _ (sameMask_of_k_eq hk _ _) a bcast).trans hread, fun _ _ => rfl⟩

/-- Settles O20: every element read lies below the vector length. -/
theorem registerBitsAboveVLAreIgnored : Obligations.RegisterBitsAboveVLAreIgnored := by
  intro i s t zmm' hregs ht
  have hsame := sameControl_zmm s zmm'
  have hregs : ∀ r, AgreeBelow i.vl (s.readZmm r) (State.readZmm { s with zmm := zmm' } r) := hregs
  obtain ⟨hcheck, v, hread, rfl⟩ := exec_eq_next.1 ht
  obtain ⟨v', hread', hv⟩ := readOperand_agreeBelow hsame rfl hregs hread
  have hdest : newDest { s with zmm := zmm' } i v' = newDest s i v :=
    maskedResult_congr _ (sameMask_of_k_eq rfl _ _) (fun j hj => rotatedElement_congr hregs hv hj)
      fun j hj => (hregs _).lane hj
  refine ⟨_, exec_eq_next.2 ⟨(hsame.checkEnabled _).trans hcheck, v', hread', rfl⟩, ?_, ?_⟩
  · rw [readZmm_complete_same, readZmm_complete_same, hdest]
  · rw [complete_pc, complete_pc, hsame.nextPc]

end Sys2Proof.Machine

/-! ## What the decoder reads -/

namespace Sys2Proof

theorem Instr.ilen_ofImm (e : ElemSize) (vl : VL) (o : ImmForm) : (Instr.ofImm e vl o).ilen = o.ilen := by
  cases e <;> cases vl <;> rfl

theorem Instr.ilen_ofVar (e : ElemSize) (vl : VL) (o : VarForm) : (Instr.ofVar e vl o).ilen = o.ilen := by
  cases e <;> cases vl <;> rfl

/-- `ILEN` is not 0: an encoding has at least the four EVEX bytes, the opcode and ModRM (30_encoding.md R65). -/
theorem Instr.ilen_pos (i : Instr) : 0 < i.ilen := by
  rw [Instr.ilen_eq]
  cases i.form <;> simp [ImmForm.ilen, VarForm.ilen]

/-! ### Readers of bytes -/

/-- A reader takes the first `size` bytes, and answers the same whatever follows them. -/
def ReadsPrefix {α : Type} (read : List Byte → Option (α × List Byte)) (size : α → Nat) : Prop :=
  ∀ ⦃bs x rest⦄, read bs = some (x, rest) →
    ∃ pre, bs = pre ++ rest ∧ pre.length = size x ∧ ∀ tail, read (pre ++ tail) = some (x, tail)

/-- A reader that makes another value of what it reads. -/
theorem ReadsPrefix.map {α β : Type} {read : List Byte → Option (α × List Byte)} {size : α → Nat} {size' : β → Nat}
    (h : ReadsPrefix read size) (g : α → β) (hsize : ∀ x, size' (g x) = size x) :
    ReadsPrefix (fun bs => (read bs).map fun p => (g p.1, p.2)) size' := by
  intro bs y rest hy
  obtain ⟨⟨x, rest⟩, hx, hxy⟩ := Option.map_eq_some_iff.1 hy
  cases hxy
  obtain ⟨pre, hbs, hlen, hread⟩ := h hx
  exact ⟨pre, hbs, hlen.trans (hsize x).symm, fun tail => by simp [hread]⟩

/-- A reader that takes nothing. -/
theorem ReadsPrefix.pure {α : Type} {size : α → Nat} (x : α) (hsize : size x = 0) :
    ReadsPrefix (fun bs => some (x, bs)) size := by
  rintro bs y rest ⟨⟩
  exact ⟨[], rfl, hsize.symm, fun _ => rfl⟩

/-- A reader that answers as another does. -/
theorem ReadsPrefix.of_eq {α : Type} {read read' : List Byte → Option (α × List Byte)} {size : α → Nat}
    (h : ReadsPrefix read size) (heq : ∀ bs, read' bs = read bs) : ReadsPrefix read' size := funext heq ▸ h

theorem readDisp32_readsPrefix : ReadsPrefix readDisp32 fun _ => 4 := by
  intro bs v rest h
  match bs, h with
  | b0 :: b1 :: b2 :: b3 :: rest, h =>
    cases h
    exact ⟨[b0, b1, b2, b3], rfl, rfl, fun _ => rfl⟩

theorem readDisp_readsPrefix (mod : BitVec 2) (wide : Bool) : ReadsPrefix (readDisp mod wide) Disp.size := by
  have hfour := ReadsPrefix.map (size' := Disp.size) readDisp32_readsPrefix Disp.d32 fun _ => rfl
  by_cases h0 : mod = 0
  · cases wide with
    | true => exact hfour.of_eq fun _ => if_pos h0
    | false => exact (ReadsPrefix.pure (size := Disp.size) .noDisp rfl).of_eq fun _ => if_pos h0
  · by_cases h1 : mod = 1
    · subst h1
      intro bs d rest h
      cases bs with
      | nil => cases h
      | cons b bs =>
        cases h
        exact ⟨[b], rfl, rfl, fun _ => rfl⟩
    · exact hfour.of_eq fun _ => (if_neg h0).trans (if_neg h1)

/-- With `mod = 2` there are four displacement bytes (30_encoding.md R53). -/
theorem readDisp_two (bs : List Byte) : readDisp 2 false bs = (readDisp32 bs).map fun p => (.d32 p.1, p.2) := rfl

/-- Without a base, `mod = 0` comes with four displacement bytes (30_encoding.md R53). -/
theorem readDisp_wide (bs : List Byte) : readDisp 0 true bs = (readDisp32 bs).map fun p => (.d32 p.1, p.2) := rfl

/-- With `rm = 4` an address form has a SIB byte (30_encoding.md R53). -/
theorem readAddr_sib (x b : BitVec 1) (mod : BitVec 2) (sib : Byte) (bs : List Byte) :
    readAddr x b mod 4 (sib :: bs) =
      (readDisp mod (mod == 0 && fieldRm sib == 5) bs).map fun p =>
        (.sib (if mod == 0 && fieldRm sib == 5 then none else some (b ++ fieldRm sib))
          (if x = 0 ∧ fieldReg sib = 4 then none else some (x ++ fieldReg sib)) (fieldMod sib) p.1, p.2) := rfl

/-- With `mod = 0` and `rm = 5` an address form is a displacement alone (30_encoding.md R53). -/
theorem readAddr_disp32 (x b : BitVec 1) (bs : List Byte) :
    readAddr x b 0 5 bs = (readDisp32 bs).map fun p => (.disp32 p.1, p.2) := rfl

/-- An address form with a base register and no SIB byte (30_encoding.md R53). -/
theorem readAddr_base {mod : BitVec 2} {rm : BitVec 3} (hsib : rm ≠ 4) (hdisp : ¬ (mod = 0 ∧ rm = 5)) (x b : BitVec 1)
    (bs : List Byte) : readAddr x b mod rm bs = (readDisp mod false bs).map fun p => (.base (b ++ rm) p.1, p.2) :=
  (if_neg hsib).trans (if_neg hdisp)

/-- With `mod = 3` the operand is a register (30_encoding.md R54). -/
theorem readRM_of_mod_eq {modrm : Byte} (h : fieldMod modrm = 3) (x b bc : BitVec 1) (bs : List Byte) :
    readRM x b bc modrm bs = some (.reg (x ++ b ++ fieldRm modrm), bs) := if_pos h

/-- With `mod` other than 3 the operand is in memory (30_encoding.md R53). -/
theorem readRM_of_mod_ne {modrm : Byte} (h : fieldMod modrm ≠ 3) (x b bc : BitVec 1) (bs : List Byte) :
    readRM x b bc modrm bs =
      (readAddr x b (fieldMod modrm) (fieldRm modrm) bs).map fun p => (.mem p.1 (bc == 1), p.2) := if_neg h

/-- The SIB and displacement bytes do not depend on `EVEX.b`. -/
theorem tailSize_mem (a : Addr) (bcast : Bool) : (RM.mem a bcast).tailSize = (RM.mem a false).tailSize := by
  cases a <;> rfl

theorem readAddr_readsPrefix (x b : BitVec 1) (mod : BitVec 2) (rm : BitVec 3) :
    ReadsPrefix (readAddr x b mod rm) fun a => (RM.mem a false).tailSize := by
  by_cases hsib : rm = 4
  · subst hsib
    intro bs a rest h
    cases bs with
    | nil => cases h
    | cons sib bs =>
      rw [readAddr_sib] at h
      obtain ⟨⟨d, rest⟩, hd, ha⟩ := Option.map_eq_some_iff.1 h
      cases ha
      obtain ⟨pre, rfl, hlen, hread⟩ := readDisp_readsPrefix _ _ hd
      refine ⟨sib :: pre, rfl, ?_, fun tail => ?_⟩
      · change pre.length + 1 = 1 + d.size
        omega
      · rw [List.cons_append, readAddr_sib, hread, Option.map_some]
  · by_cases hdisp : mod = 0 ∧ rm = 5
    · obtain ⟨rfl, rfl⟩ := hdisp
      exact (ReadsPrefix.map readDisp32_readsPrefix Addr.disp32 fun _ => rfl).of_eq (readAddr_disp32 x b)
    · exact (ReadsPrefix.map (readDisp_readsPrefix mod false) (Addr.base (b ++ rm)) fun _ => rfl).of_eq
        (readAddr_base hsib hdisp x b)

theorem readRM_readsPrefix (x b bc : BitVec 1) (modrm : Byte) : ReadsPrefix (readRM x b bc modrm) RM.tailSize := by
  by_cases hreg : fieldMod modrm = 3
  · exact (ReadsPrefix.pure (.reg (x ++ b ++ fieldRm modrm)) rfl).of_eq (readRM_of_mod_eq hreg x b bc)
  · exact (ReadsPrefix.map (readAddr_readsPrefix x b (fieldMod modrm) (fieldRm modrm)) (fun a => .mem a (bc == 1))
      fun a => tailSize_mem a _).of_eq (readRM_of_mod_ne hreg x b bc)

/-! ### Legacy prefixes -/

theorem count_addSeg {p p' : Prefixes} {g : Seg} (h : p.addSeg g = some p') : p'.count = p.count + 1 := by
  cases p <;> cases h <;> rfl

theorem count_addAddr {p p' : Prefixes} (h : p.addAddr = some p') : p'.count = p.count + 1 := by
  cases p <;> cases h <;> rfl

/-- Reading legacy prefixes stops at a byte `b` that is none, and looks at no byte after it. -/
theorem scanPrefixes_found {m : Mode} {p p' : Prefixes} {bs rest : List Byte}
    (h : scanPrefixes m p bs = .found p' rest) :
    ∃ pre b rest', rest = b :: rest' ∧ bs = pre ++ b :: rest' ∧ p.count + pre.length = p'.count ∧
      ∀ tail, scanPrefixes m p (pre ++ b :: tail) = .found p' (b :: tail) := by
  induction bs generalizing p with
  | nil => cases h
  | cons c bs ih =>
    -- one more legacy byte `c`, which makes `q` of `p`
    have hmore {q : Prefixes} (hc : ∀ bs, scanPrefixes m p (c :: bs) = scanPrefixes m q bs) (hq : q.count = p.count + 1) :
        ∃ pre b rest', rest = b :: rest' ∧ c :: bs = pre ++ b :: rest' ∧ p.count + pre.length = p'.count ∧
          ∀ tail, scanPrefixes m p (pre ++ b :: tail) = .found p' (b :: tail) := by
      obtain ⟨pre, b, rest', hrest, hbs, hlen, hscan⟩ := ih ((hc bs).symm.trans h)
      refine ⟨c :: pre, b, rest', hrest, by rw [hbs]; rfl, by rw [List.length_cons]; omega, fun tail => ?_⟩
      exact (hc _).trans (hscan tail)
    cases hseg : segOverride c with
    | some g =>
      cases hp : p.addSeg g with
      | none => simp [scanPrefixes, hseg, hp] at h
      | some q => exact hmore (fun _ => by simp [scanPrefixes, hseg, hp]) (count_addSeg hp)
    | none =>
      by_cases h67 : c = 0x67
      · by_cases hm : m = .mode32
        · simp only [scanPrefixes, hseg, if_pos h67, if_pos hm, reduceCtorEq] at h
        · cases hp : p.addAddr with
          | none => simp only [scanPrefixes, hseg, if_pos h67, if_neg hm, hp, reduceCtorEq] at h
          | some q => exact hmore (fun _ => by simp only [scanPrefixes, hseg, if_pos h67, if_neg hm, hp]) (count_addAddr hp)
      · simp only [scanPrefixes, hseg, if_neg h67] at h
        cases h
        exact ⟨[], c, bs, rfl, rfl, rfl, fun _ => by simp only [List.nil_append, scanPrefixes, hseg, if_neg h67]⟩

/-! ### The bytes after 0x62 -/

/-- The five bytes after 0x62 and the byte before it, where they begin an instruction of row kind `f` with vector length `vl`
and masking `k` (30_encoding.md R70 steps 3 to 8 and 10). -/
def EvexHeader (m : Mode) (bad : Bool) (p0 p1 p2 opcode modrm : Byte) (f : OpEn) (vl : VL) (k : Masking) : Prop :=
  ¬ (m ≠ .mode64 ∧ p0.extractLsb' 6 2 ≠ 3) ∧
  ¬ (p0.extractLsb' 2 2 ≠ 0 ∨ p1.extractLsb' 2 1 ≠ 1) ∧
  rowOf (p0mm p0) (p1pp p1) opcode (fieldReg modrm) = some f ∧
  (bad || !m.admitted) = false ∧
  (p2b p2 == 1 && fieldMod modrm == 3) = false ∧
  unusedBits m f p0 p1 p2 = none ∧
  vlOf (p2LL p2) = some vl ∧
  maskingOf (p2z p2) (p2aaa p2) = some k

/-- Behind a forbidden byte there is no header (30_encoding.md R67 U-g). -/
theorem EvexHeader.not_bad {m : Mode} {bad : Bool} {p0 p1 p2 opcode modrm : Byte} {f : OpEn} {vl : VL} {k : Masking}
    (h : EvexHeader m bad p0 p1 p2 opcode modrm f vl k) : bad = false := by
  obtain ⟨-, -, -, hbad, -⟩ := h
  exact (Bool.or_eq_false_iff.1 hbad).1

/-- Five bytes after 0x62 and the bytes `rest` after them decode to an instruction exactly when they are a header, an operand
and, in an immediate form, an immediate (30_encoding.md R55, R56). -/
theorem decodeEvex_cons_eq_ok {m : Mode} {p : Prefixes} {bad : Bool} {p0 p1 p2 opcode modrm : Byte} {rest : List Byte}
    {i : Instr} :
    decodeEvex m p bad (p0 :: p1 :: p2 :: opcode :: modrm :: rest) = .ok i ↔
      ∃ vl k rm rest', readRM (p0X p0) (p0B p0) (p2b p2) modrm rest = some (rm, rest') ∧
        ((EvexHeader m bad p0 p1 p2 opcode modrm .b vl k ∧
            i = .ofVar (elemOf (p1W p1)) vl ⟨p, regOperand p0 modrm, k, vvvvOperand p1 p2, rm⟩) ∨
          ∃ imm rest'', EvexHeader m bad p0 p1 p2 opcode modrm .a vl k ∧ rest' = imm :: rest'' ∧
            i = .ofImm (elemOf (p1W p1)) vl ⟨p, vvvvOperand p1 p2, k, rm, imm⟩) := by
  constructor
  · intro h
    simp only [decodeEvex] at h
    split at h
    · cases h
    next hbound =>
    split at h
    · cases h
    next hfixed =>
    split at h
    · cases h
    next f hrow =>
    split at h
    · cases h
    next rm rest' hrm =>
    split at h
    · obtain ⟨hbad, hb, hunused, vl, k, hvl, hk, hi⟩ := judge_eq_ok.1 h
      exact ⟨vl, k, rm, rest', hrm, .inl ⟨⟨hbound, hfixed, hrow, hbad, hb, hunused, hvl, hk⟩, hi.symm⟩⟩
    · split at h
      · cases h
      next imm rest'' =>
      obtain ⟨hbad, hb, hunused, vl, k, hvl, hk, hi⟩ := judge_eq_ok.1 h
      exact ⟨vl, k, rm, _, hrm,
        .inr ⟨imm, rest'', ⟨hbound, hfixed, hrow, hbad, hb, hunused, hvl, hk⟩, rfl, hi.symm⟩⟩
  · rintro ⟨vl, k, rm, rest', hrm, ⟨⟨hbound, hfixed, hrow, hbad, hb, hunused, hvl, hk⟩, rfl⟩ |
      ⟨imm, rest'', ⟨hbound, hfixed, hrow, hbad, hb, hunused, hvl, hk⟩, rfl, rfl⟩⟩
    · simp only [decodeEvex, if_neg hbound, if_neg hfixed, hrow, hrm]
      exact judge_eq_ok.2 ⟨hbad, hb, hunused, vl, k, hvl, hk, rfl⟩
    · simp only [decodeEvex, if_neg hbound, if_neg hfixed, hrow, hrm]
      exact judge_eq_ok.2 ⟨hbad, hb, hunused, vl, k, hvl, hk, rfl⟩

/-- Fewer than five bytes after 0x62 are no instruction. -/
theorem exists_cons_of_decodeEvex {m : Mode} {p : Prefixes} {bad : Bool} {bs : List Byte} {i : Instr}
    (h : decodeEvex m p bad bs = .ok i) : ∃ p0 p1 p2 opcode modrm rest, bs = p0 :: p1 :: p2 :: opcode :: modrm :: rest := by
  match bs, h with
  | p0 :: p1 :: p2 :: opcode :: modrm :: rest, _ => exact ⟨p0, p1, p2, opcode, modrm, rest, rfl⟩

/-- The bytes after 0x62 that decode to an instruction: those of its length, whatever follows them. -/
theorem decodeEvex_readsPrefix {m : Mode} {p : Prefixes} {bad : Bool} {bs : List Byte} {i : Instr}
    (h : decodeEvex m p bad bs = .ok i) :
    ∃ pre rest, bs = pre ++ rest ∧ p.count + 1 + pre.length = i.ilen ∧
      ∀ tail, decodeEvex m p bad (pre ++ tail) = .ok i := by
  obtain ⟨p0, p1, p2, opcode, modrm, rest, rfl⟩ := exists_cons_of_decodeEvex h
  obtain ⟨vl, k, rm, rest', hrm, hi⟩ := decodeEvex_cons_eq_ok.1 h
  obtain ⟨pre, rfl, hlen, hread⟩ := readRM_readsPrefix _ _ _ _ hrm
  obtain ⟨hheader, rfl⟩ | ⟨imm, rest'', hheader, rfl, rfl⟩ := hi
  · refine ⟨p0 :: p1 :: p2 :: opcode :: modrm :: pre, rest', rfl, ?_, fun tail =>
      decodeEvex_cons_eq_ok.2 ⟨vl, k, rm, tail, hread tail, .inl ⟨hheader, rfl⟩⟩⟩
    rw [Instr.ilen_ofVar]
    simp only [VarForm.ilen, List.length_cons]
    omega
  · refine ⟨p0 :: p1 :: p2 :: opcode :: modrm :: (pre ++ [imm]), rest'', by simp, ?_, fun tail =>
      decodeEvex_cons_eq_ok.2 ⟨vl, k, rm, imm :: tail, ?_, .inr ⟨imm, tail, hheader, rfl, rfl⟩⟩⟩
    · rw [Instr.ilen_ofImm]
      simp only [ImmForm.ilen, List.length_cons, List.length_append, List.length_nil]
      omega
    · have happend : pre ++ [imm] ++ tail = pre ++ imm :: tail := by simp
      exact (congrArg _ happend).trans (hread (imm :: tail))

/-! ### The whole encoding -/

/-- 0x62 is not one of the forbidden bytes of U-g. -/
theorem decodeAfterPrefixes_evex (m : Mode) (p : Prefixes) (rest : List Byte) :
    decodeAfterPrefixes m p (0x62 :: rest) = decodeEvex m p false rest := by
  cases m <;> rfl

/-- An instruction begins with 0x62, after its admitted prefixes. -/
theorem decodeAfterPrefixes_eq_ok {m : Mode} {p : Prefixes} {bs : List Byte} {i : Instr}
    (h : decodeAfterPrefixes m p bs = .ok i) : ∃ rest, bs = 0x62 :: rest ∧ decodeEvex m p false rest = .ok i := by
  have hbad (rest : List Byte) : decodeEvex m p true rest ≠ .ok i := by
    intro hdecode
    obtain ⟨_, _, _, _, _, _, rfl⟩ := exists_cons_of_decodeEvex hdecode
    obtain ⟨_, _, _, _, -, ⟨hheader, -⟩ | ⟨_, _, hheader, -⟩⟩ := decodeEvex_cons_eq_ok.1 hdecode
    · cases hheader.not_bad
    · cases hheader.not_bad
  cases bs with
  | nil => cases h
  | cons b rest =>
    simp only [decodeAfterPrefixes, skipForbidden] at h
    cases hb : forbiddenPrefix m b with
    | true =>
      simp only [hb, if_true] at h
      split at h
      · cases h
      · split at h
        · exact absurd h (hbad _)
        · cases h
    | false =>
      simp only [hb, Bool.false_eq_true, if_false] at h
      split at h
      next h62 => exact ⟨rest, by rw [h62], h⟩
      · cases h

/-- Decoding goes on after the legacy prefixes. -/
theorem decode_of_found {m : Mode} {bs rest : List Byte} {p : Prefixes} (hm : m ≠ .code16)
    (hscan : scanPrefixes m .noPrefix bs = .found p rest) : decode m bs = decodeAfterPrefixes m p rest := by
  rw [decode, if_neg hm, hscan]

/-- Bytes that decode to an instruction begin with the `ILEN` bytes that decode to it, whatever follows them
(30_encoding.md R48, R65). -/
theorem decode_readsPrefix {m : Mode} {bs : List Byte} {i : Instr} (h : decode m bs = .ok i) :
    ∃ pre rest, bs = pre ++ rest ∧ pre.length = i.ilen ∧ ∀ tail, decode m (pre ++ tail) = .ok i := by
  unfold decode at h
  split at h
  · cases h
  next hmode =>
  split at h
  · cases h
  · cases h
  next p rest hscan =>
  obtain ⟨pre, b, rest', rfl, rfl, hpre, hfound⟩ := scanPrefixes_found hscan
  obtain ⟨_, hbs, hevex⟩ := decodeAfterPrefixes_eq_ok h
  cases hbs
  obtain ⟨body, rest'', rfl, hbody, hdecode⟩ := decodeEvex_readsPrefix hevex
  refine ⟨pre ++ 0x62 :: body, rest'', by simp, ?_, fun tail => ?_⟩
  · have hcount : Prefixes.noPrefix.count = 0 := rfl
    rw [List.length_append, List.length_cons]
    omega
  · rw [List.append_assoc, List.cons_append]
    rw [decode_of_found hmode (hfound _), decodeAfterPrefixes_evex, hdecode]

end Sys2Proof

namespace Sys2Proof.Machine

open Sys2Proof Host

/-- The fetched bytes are bytes of memory from pc on, each of them fetchable (20_memory.md R46). -/
theorem fetchBytes_eq_append {s : State} {pre rest : List Byte} (h : s.fetchBytes = pre ++ rest) :
    pre = (List.range pre.length).map (fun k => s.mem.read (s.pc.toNat + k)) ∧
      ∀ k < pre.length, s.fetchable (s.pc.toNat + k) = true := by
  have hbyte {k : Nat} (hk : k < pre.length) : s.fetchBytes[k]? = some pre[k] := by
    rw [h, List.getElem?_append_left hk, List.getElem?_eq_getElem hk]
  constructor
  · apply List.ext_getElem
    · simp
    · intro k hk _
      obtain ⟨hmem, -, -⟩ := getElem?_fetchFrom (hbyte hk)
      simpa using hmem
  · intro k hk
    obtain ⟨-, hfetch, -⟩ := getElem?_fetchFrom (hbyte hk)
    exact hfetch

/-- Settles O49: the step is the completed rotate of `exec_eq_next`, and the decoder read its `ILEN` bytes from memory at pc
(`decode_readsPrefix`). -/
theorem everyCompletedStepIsOneEnabledRotate : Obligations.EveryCompletedStepIsOneEnabledRotate := by
  intro s t h
  obtain ⟨i, hdecode, hexec⟩ := step_eq_next.1 h
  obtain ⟨hcheck, v, -, rfl⟩ := exec_eq_next.1 hexec
  obtain ⟨pre, rest, hbytes, hlen, hpre⟩ := decode_readsPrefix hdecode
  obtain ⟨hmem, hfetch⟩ := fetchBytes_eq_append hbytes
  rw [hlen] at hmem hfetch
  have hspace : s.pc.toNat + i.ilen ≤ 2 ^ s.addressWidth := by
    have hpos := i.ilen_pos
    have hlast := lt_of_fetchable (hfetch (i.ilen - 1) (by omega))
    omega
  have hown : decode s.mode ((List.range i.ilen).map fun k => s.mem.read (s.pc.toNat + k)) = .ok i := by
    simpa [← hmem] using hpre []
  refine ⟨i, hdecode, hown, checkEnabled_eq_next_iff_runnable.1 hcheck, hspace, hfetch, nextPc_toNat s _, fun b hb => ?_,
    complete_onlyWrites s _ _ _⟩
  rw [readZmm_complete_same]
  exact newDest_getLsbD_of_ge s i v hb

end Sys2Proof.Machine

/-! ## Decoding what the encoder wrote -/

namespace Sys2Proof

/-! ### Fields of the bytes that the encoder makes (30_encoding.md R49 to R53) -/

/-- A field of the high part of a byte, `b` bits further up in the whole. -/
theorem extract_above {a b n p : Nat} {x : BitVec a} {y : BitVec b} {field : BitVec n} (h : x.extractLsb' p n = field) :
    (x ++ y).extractLsb' (p + b) n = field := by
  rw [BitVec.extractLsb'_append_eq_of_le (Nat.le_add_left b p), Nat.add_sub_cancel, h]

/-- A field that is stored inverted. -/
theorem not_eq_of_stored {n : Nat} {x field : BitVec n} (h : x = ~~~ field) : ~~~ x = field := by rw [h, BitVec.not_not]

theorem fields_mkP0 (r x b r' : BitVec 1) (mm : BitVec 2) :
    p0R (mkP0 r x b r' mm) = r ∧ p0X (mkP0 r x b r' mm) = x ∧ p0B (mkP0 r x b r' mm) = b ∧
      p0R' (mkP0 r x b r' mm) = r' ∧ p0mm (mkP0 r x b r' mm) = mm ∧ (mkP0 r x b r' mm).extractLsb' 2 2 = 0 :=
  ⟨not_eq_of_stored
      (extract_above (extract_above (extract_above (extract_above (extract_above BitVec.extractLsb'_eq_self))))),
    not_eq_of_stored (extract_above (extract_above (extract_above (extract_above BitVec.extractLsb'_append_eq_right)))),
    not_eq_of_stored (extract_above (extract_above (extract_above BitVec.extractLsb'_append_eq_right))),
    not_eq_of_stored (extract_above (extract_above BitVec.extractLsb'_append_eq_right)),
    BitVec.extractLsb'_append_eq_right, extract_above BitVec.extractLsb'_append_eq_right⟩

/-- `P0[7:6]` is 11 where `R` and `X` are 0: the bytes are not BOUND (30_encoding.md R68). -/
theorem top_mkP0 (b r' : BitVec 1) (mm : BitVec 2) : (mkP0 0 0 b r' mm).extractLsb' 6 2 = 3 :=
  extract_above (extract_above (extract_above (extract_above BitVec.extractLsb'_eq_self)))

theorem fields_mkP1 (w : BitVec 1) (vvvv : BitVec 4) :
    p1W (mkP1 w vvvv) = w ∧ p1vvvv (mkP1 w vvvv) = vvvv ∧ p1pp (mkP1 w vvvv) = 1 ∧
      (mkP1 w vvvv).extractLsb' 2 1 = 1 :=
  ⟨extract_above (extract_above (extract_above BitVec.extractLsb'_eq_self)),
    not_eq_of_stored (extract_above (extract_above BitVec.extractLsb'_append_eq_right)), BitVec.extractLsb'_append_eq_right,
    extract_above BitVec.extractLsb'_append_eq_right⟩

theorem fields_mkP2 (z : BitVec 1) (ll : BitVec 2) (b v' : BitVec 1) (aaa : BitVec 3) :
    p2z (mkP2 z ll b v' aaa) = z ∧ p2LL (mkP2 z ll b v' aaa) = ll ∧ p2b (mkP2 z ll b v' aaa) = b ∧
      p2V' (mkP2 z ll b v' aaa) = v' ∧ p2aaa (mkP2 z ll b v' aaa) = aaa :=
  ⟨extract_above (extract_above (extract_above (extract_above BitVec.extractLsb'_eq_self))),
    extract_above (extract_above (extract_above BitVec.extractLsb'_append_eq_right)),
    extract_above (extract_above BitVec.extractLsb'_append_eq_right),
    not_eq_of_stored (extract_above BitVec.extractLsb'_append_eq_right), BitVec.extractLsb'_append_eq_right⟩

theorem fields_mkModRM (mod : BitVec 2) (reg rm : BitVec 3) :
    fieldMod (mkModRM mod reg rm) = mod ∧ fieldReg (mkModRM mod reg rm) = reg ∧ fieldRm (mkModRM mod reg rm) = rm :=
  ⟨extract_above (extract_above BitVec.extractLsb'_eq_self), extract_above BitVec.extractLsb'_append_eq_right,
    BitVec.extractLsb'_append_eq_right⟩

theorem elemOf_wBit (e : ElemSize) : elemOf e.wBit = e := by cases e <;> rfl

theorem vlOf_field (vl : VL) : vlOf vl.field = some vl := by cases vl <;> rfl

theorem maskingOf_bits {k : Masking} (h : k.wf = true) : maskingOf k.zBit k.aaa = some k := by
  cases k with
  | unmasked => rfl
  | merging k => simp_all [Masking.wf, maskingOf, Masking.zBit, Masking.aaa]
  | zeroing k => simp_all [Masking.wf, maskingOf, Masking.zBit, Masking.aaa]

/-! ### Register numbers from their fields (30_encoding.md R54) -/

theorem vreg_of_reg_fields (r : VReg) : r.extractLsb' 4 1 ++ r.extractLsb' 3 1 ++ r.extractLsb' 0 3 = r := by
  rw [BitVec.extractLsb'_append_extractLsb'_eq_extractLsb' (rfl : 4 = 3 + 1),
    BitVec.extractLsb'_append_extractLsb'_eq_extractLsb' (rfl : 3 = 0 + 3), BitVec.extractLsb'_eq_self]

theorem vreg_of_vvvv_fields (r : VReg) : r.extractLsb' 4 1 ++ r.extractLsb' 0 4 = r := by
  rw [BitVec.extractLsb'_append_extractLsb'_eq_extractLsb' (rfl : 4 = 0 + 4), BitVec.extractLsb'_eq_self]

theorem greg_of_fields : ∀ r : GReg, GReg.highOf (some r) ++ GReg.low r = r := by decide

/-- An index register numbered other than 4, or none, is what its fields say (30_encoding.md R57). -/
theorem index_of_fields : ∀ {r : Option GReg}, r ≠ some 4 →
    (if GReg.highOf r = 0 ∧ sibIndex r = 4 then none else some (GReg.highOf r ++ sibIndex r)) = r
  | none, _ => rfl
  | some r, h => by revert r; decide

/-- A vector register of `Mode32` has number bits 4 and 3 clear, in either place (30_encoding.md R68). -/
theorem vreg_high_bits_of_mode32 : ∀ {r : VReg}, VReg.inMode .mode32 r = true →
    r.extractLsb' 4 1 = 0 ∧ r.extractLsb' 3 1 = 0 ∧ (r.extractLsb' 0 4).extractLsb' 3 1 = 0 := by decide

/-- A general register of `Mode32`, or its absence, needs no extension bit. -/
theorem highOf_of_mode32 {r : Option GReg} (h : GReg.optInMode .mode32 r = true) : GReg.highOf r = 0 := by
  cases r with
  | none => rfl
  | some r => revert r; decide

/-! ### Operands -/

theorem readDisp32_bytes (v : BitVec 32) (rest : List Byte) : readDisp32 (disp32Bytes v ++ rest) = some (v, rest) := by
  have hbytes : v.extractLsb' 24 8 ++ v.extractLsb' 16 8 ++ v.extractLsb' 8 8 ++ v.extractLsb' 0 8 = v := by
    rw [BitVec.extractLsb'_append_extractLsb'_eq_extractLsb' (rfl : 24 = 16 + 8),
      BitVec.extractLsb'_append_extractLsb'_eq_extractLsb' (rfl : 16 = 8 + 8),
      BitVec.extractLsb'_append_extractLsb'_eq_extractLsb' (rfl : 8 = 0 + 8), BitVec.extractLsb'_eq_self]
  simp only [disp32Bytes, List.cons_append, List.nil_append, readDisp32, hbytes]

theorem readDisp_bytes (d : Disp) (rest : List Byte) : readDisp d.modField false (d.bytes ++ rest) = some (d, rest) := by
  cases d with
  | noDisp => rfl
  | d8 v => rfl
  | d32 v =>
    refine (readDisp_two (disp32Bytes v ++ rest)).trans ?_
    rw [readDisp32_bytes, Option.map_some]

/-- A displacement that fits its base: the base field holds 5 only where `mod` is not 0 (30_encoding.md R53). -/
theorem fitsBase_iff (d : Disp) (b : GReg) : d.fitsBase b = true ↔ ¬ (d.modField = 0 ∧ GReg.low b = 5) := by
  cases d <;> simp [Disp.fitsBase, Disp.modField]

/-- Reading an encoded address form gives it back. -/
theorem readAddr_code {a : Addr} (h : a.wf = true) (bc : BitVec 1) (rest : List Byte) :
    readAddr (a.code bc).x (a.code bc).b (a.code bc).mod (a.code bc).rm ((a.code bc).tail ++ rest) = some (a, rest) := by
  cases a with
  | disp32 v =>
    change readAddr 0 0 0 5 (disp32Bytes v ++ rest) = _
    rw [readAddr_disp32, readDisp32_bytes, Option.map_some]
  | base b d =>
    obtain ⟨hrm, hfits⟩ := Bool.and_eq_true_iff.1 h
    change readAddr 0 (GReg.highOf (some b)) d.modField (GReg.low b) (d.bytes ++ rest) = _
    rw [readAddr_base (bne_iff_ne.1 hrm) ((fitsBase_iff d b).1 hfits), readDisp_bytes, Option.map_some, greg_of_fields]
  | sib ob oi scale d =>
    obtain ⟨hindex, hbase⟩ := Bool.and_eq_true_iff.1 h
    have hsib (mod : BitVec 2) : readAddr (GReg.highOf oi) (GReg.highOf ob) mod 4
        (mkModRM scale (sibIndex oi) (sibBase ob) :: (d.bytes ++ rest)) =
          (readDisp mod (mod == 0 && sibBase ob == 5) (d.bytes ++ rest)).map fun p =>
            (.sib (if mod == 0 && sibBase ob == 5 then none else some (GReg.highOf ob ++ sibBase ob)) oi scale p.1, p.2) := by
      obtain ⟨hscale, hoi, hob⟩ := fields_mkModRM scale (sibIndex oi) (sibBase ob)
      rw [readAddr_sib, hscale, hoi, hob, index_of_fields (bne_iff_ne.1 hindex)]
    cases ob with
    | none =>
      cases d with
      | d32 v =>
        have hwide : ((0 : BitVec 2) == 0 && sibBase none == 5) = true := rfl
        refine (hsib 0).trans ?_
        rw [hwide]
        exact congrArg _ ((readDisp_wide (disp32Bytes v ++ rest)).trans (congrArg _ (readDisp32_bytes v rest)))
      | noDisp => cases hbase
      | d8 v => cases hbase
    | some b =>
      have hwide : (d.modField == 0 && GReg.low b == 5) = false := by simpa using (fitsBase_iff d b).1 hbase
      change (d.modField == 0 && sibBase (some b) == 5) = false at hwide
      refine (hsib d.modField).trans ?_
      rw [hwide, readDisp_bytes, Option.map_some]
      exact congrArg (fun r => some (Addr.sib (some r) oi scale d, rest)) (greg_of_fields b)

/-- Memory operands have `mod` other than 3 (30_encoding.md R53). -/
theorem code_mod_ne (a : Addr) (bc : BitVec 1) : (a.code bc).mod ≠ 3 := by
  have hdisp : ∀ d : Disp, d.modField ≠ 3
    | .noDisp => (by decide : (0 : BitVec 2) ≠ 3)
    | .d8 _ => (by decide : (1 : BitVec 2) ≠ 3)
    | .d32 _ => (by decide : (2 : BitVec 2) ≠ 3)
  have hzero : (0 : BitVec 2) ≠ 3 := by decide
  cases a with
  | disp32 v => exact hzero
  | base b d => exact hdisp d
  | sib ob oi scale d =>
    cases ob with
    | none => exact hzero
    | some b => exact hdisp d

theorem code_bc (a : Addr) (bc : BitVec 1) : (a.code bc).bc = bc := by cases a <;> rfl

/-- Reading an encoded `ModRM:r/m` operand gives it back, whatever `ModRM.reg` holds. -/
theorem readRM_code {m : Mode} {rm : RM} (h : rm.wf m = true) (reg : BitVec 3) (rest : List Byte) :
    readRM rm.code.x rm.code.b rm.code.bc (mkModRM rm.code.mod reg rm.code.rm) (rm.code.tail ++ rest) = some (rm, rest) := by
  cases rm with
  | reg r =>
    obtain ⟨hmod, -, hrm⟩ := fields_mkModRM 3 reg (r.extractLsb' 0 3)
    refine (readRM_of_mod_eq hmod _ _ _ _).trans ?_
    rw [hrm]
    exact congrArg (fun r => some (RM.reg r, rest)) (vreg_of_reg_fields r)
  | mem a bcast =>
    obtain ⟨ha, -⟩ := Bool.and_eq_true_iff.1 h
    have hbcast : ((if bcast then 1 else 0 : BitVec 1) == 1) = bcast := by cases bcast <;> rfl
    change readRM (a.code _).x (a.code _).b (a.code _).bc (mkModRM (a.code _).mod reg (a.code _).rm)
      ((a.code _).tail ++ rest) = _
    obtain ⟨hmod, -, hrm⟩ := fields_mkModRM (a.code (if bcast then 1 else 0)).mod reg (a.code (if bcast then 1 else 0)).rm
    rw [readRM_of_mod_ne (fun h => code_mod_ne a _ (hmod.symm.trans h)), hmod, hrm, readAddr_code ha, code_bc, hbcast,
      Option.map_some]

/-- `EVEX.b` is 1 for memory operands only (30_encoding.md R61). -/
theorem code_notBRegister (rm : RM) : (rm.code.bc == 1 && rm.code.mod == 3) = false := by
  cases rm with
  | reg r => rfl
  | mem a bcast =>
    have hmod : ((RM.mem a bcast).code.mod == 3) = false := beq_eq_false_iff_ne.2 (code_mod_ne a _)
    rw [hmod, Bool.and_false]

/-- In `Mode32` an operand uses neither `X` nor `B` (30_encoding.md R68). -/
theorem code_of_mode32 {rm : RM} (h : rm.wf .mode32 = true) : rm.code.x = 0 ∧ rm.code.b = 0 := by
  cases rm with
  | reg r =>
    obtain ⟨h4, h3, -⟩ := vreg_high_bits_of_mode32 h
    exact ⟨h4, h3⟩
  | mem a bcast =>
    obtain ⟨-, hmode⟩ := Bool.and_eq_true_iff.1 h
    cases a with
    | disp32 v => exact ⟨rfl, rfl⟩
    | base b d => exact ⟨rfl, highOf_of_mode32 (r := some b) hmode⟩
    | sib ob oi scale d =>
      obtain ⟨hbase, hindex⟩ := Bool.and_eq_true_iff.1 hmode
      exact ⟨highOf_of_mode32 hindex, highOf_of_mode32 hbase⟩

/-! ### Whole instructions -/

/-- Admitted prefixes before 0x62 are read whole. -/
theorem decode_prefixes {m : Mode} {p : Prefixes} (hm : m.admitted = true) (hp : p.wf m = true) (rest : List Byte) :
    decode m (p.bytes ++ 0x62 :: rest) = decodeEvex m p false rest := by
  have hmode : m ≠ .code16 := by rintro rfl; cases hm
  rw [decode_of_found hmode (scanPrefixes_bytes hp (by decide) (by decide) rest), decodeAfterPrefixes_evex]

/-- No unused extension bit is stored as 0 where form A uses neither `R` nor `R'` and `Mode32` uses no bit at all
(30_encoding.md R70 step 10). -/
theorem unusedBits_eq_none {m : Mode} {f : OpEn} {p0 p1 p2 : Byte} (ha : f = .a → p0R p0 = 0 ∧ p0R' p0 = 0)
    (h32 : m = .mode32 → p0B p0 = 0 ∧ p0R' p0 = 0 ∧ p2V' p2 = 0 ∧ (p1vvvv p1).extractLsb' 3 1 = 0) :
    unusedBits m f p0 p1 p2 = none :=
  (if_neg fun h => h.2 (ha h.1)).trans (if_neg fun h => h.2 (h32 h.1))

/-- The header of an encoded immediate form (30_encoding.md R55). -/
theorem evexHeader_imm {m : Mode} {o : ImmForm} (hm : m.admitted = true) (h : o.wf m = true) (e : ElemSize) (vl : VL) :
    EvexHeader m false (mkP0 0 o.src.code.x o.src.code.b 0 1) (mkP1 e.wBit (o.dest.extractLsb' 0 4))
      (mkP2 o.mask.zBit vl.field o.src.code.bc (o.dest.extractLsb' 4 1) o.mask.aaa) 0x72
      (mkModRM o.src.code.mod 1 o.src.code.rm) .a vl o.mask := by
  obtain ⟨-, hdest, hmask, hsrc⟩ := ImmForm.wf_iff.1 h
  obtain ⟨hR, -, hB, hR', hmm, hfixed0⟩ := fields_mkP0 0 o.src.code.x o.src.code.b 0 1
  obtain ⟨-, hvvvv, hpp, hfixed1⟩ := fields_mkP1 e.wBit (o.dest.extractLsb' 0 4)
  obtain ⟨hz, hll, hb, hV', haaa⟩ := fields_mkP2 o.mask.zBit vl.field o.src.code.bc (o.dest.extractLsb' 4 1) o.mask.aaa
  obtain ⟨hmod, hreg, -⟩ := fields_mkModRM o.src.code.mod 1 o.src.code.rm
  refine ⟨?bound, by rw [hfixed0, hfixed1]; decide, by rw [hmm, hpp, hreg]; decide, by rw [hm]; rfl,
    by rw [hb, hmod, code_notBRegister], unusedBits_eq_none (fun _ => ⟨hR, hR'⟩) fun h32 => ?unused, by rw [hll, vlOf_field],
    by rw [hz, haaa, maskingOf_bits hmask]⟩
  case bound =>
    rintro ⟨h64, htop⟩
    obtain rfl := (Mode.admitted_iff.1 hm).resolve_left h64
    exact htop (by rw [(code_of_mode32 hsrc).1, top_mkP0])
  case unused =>
    subst h32
    obtain ⟨hhigh, -, hlow⟩ := vreg_high_bits_of_mode32 hdest
    exact ⟨hB.trans (code_of_mode32 hsrc).2, hR', hV'.trans hhigh, by rw [hvvvv, hlow]⟩

/-- The header of an encoded variable form (30_encoding.md R56). -/
theorem evexHeader_var {m : Mode} {o : VarForm} (hm : m.admitted = true) (h : o.wf m = true) (e : ElemSize) (vl : VL) :
    EvexHeader m false (mkP0 (o.dest.extractLsb' 3 1) o.count.code.x o.count.code.b (o.dest.extractLsb' 4 1) 2)
      (mkP1 e.wBit (o.src.extractLsb' 0 4))
      (mkP2 o.mask.zBit vl.field o.count.code.bc (o.src.extractLsb' 4 1) o.mask.aaa) 0x15
      (mkModRM o.count.code.mod (o.dest.extractLsb' 0 3) o.count.code.rm) .b vl o.mask := by
  obtain ⟨-, hdest, hmask, hsrc, hcount⟩ := VarForm.wf_iff.1 h
  obtain ⟨-, -, hB, hR', hmm, hfixed0⟩ :=
    fields_mkP0 (o.dest.extractLsb' 3 1) o.count.code.x o.count.code.b (o.dest.extractLsb' 4 1) 2
  obtain ⟨-, hvvvv, hpp, hfixed1⟩ := fields_mkP1 e.wBit (o.src.extractLsb' 0 4)
  obtain ⟨hz, hll, hb, hV', haaa⟩ := fields_mkP2 o.mask.zBit vl.field o.count.code.bc (o.src.extractLsb' 4 1) o.mask.aaa
  obtain ⟨hmod, -, -⟩ := fields_mkModRM o.count.code.mod (o.dest.extractLsb' 0 3) o.count.code.rm
  refine ⟨?bound, by rw [hfixed0, hfixed1]; decide, by rw [hmm, hpp]; rfl, by rw [hm]; rfl,
    by rw [hb, hmod, code_notBRegister], unusedBits_eq_none nofun fun h32 => ?unused, by rw [hll, vlOf_field],
    by rw [hz, haaa, maskingOf_bits hmask]⟩
  case bound =>
    rintro ⟨h64, htop⟩
    obtain rfl := (Mode.admitted_iff.1 hm).resolve_left h64
    obtain ⟨-, hR, -⟩ := vreg_high_bits_of_mode32 hdest
    exact htop (by rw [hR, (code_of_mode32 hcount).1, top_mkP0])
  case unused =>
    subst h32
    obtain ⟨hdestHigh, -, -⟩ := vreg_high_bits_of_mode32 hdest
    obtain ⟨hsrcHigh, -, hsrcLow⟩ := vreg_high_bits_of_mode32 hsrc
    exact ⟨hB.trans (code_of_mode32 hcount).2, hR'.trans hdestHigh, hV'.trans hsrcHigh, by rw [hvvvv, hsrcLow]⟩

theorem decode_encodeImm {m : Mode} {o : ImmForm} (hm : m.admitted = true) (h : o.wf m = true) (e : ElemSize) (vl : VL)
    (rest : List Byte) : decode m (encodeImm e vl o ++ rest) = .ok (.ofImm e vl o) := by
  obtain ⟨hp, -, -, hsrc⟩ := ImmForm.wf_iff.1 h
  have hread := readRM_code hsrc 1 (o.imm :: rest)
  obtain ⟨-, hX, hB, -⟩ := fields_mkP0 0 o.src.code.x o.src.code.b 0 1
  obtain ⟨hW, hvvvv, -⟩ := fields_mkP1 e.wBit (o.dest.extractLsb' 0 4)
  obtain ⟨-, -, hb, hV', -⟩ := fields_mkP2 o.mask.zBit vl.field o.src.code.bc (o.dest.extractLsb' 4 1) o.mask.aaa
  simp only [encodeImm, List.append_assoc, List.cons_append, List.nil_append]
  rw [decode_prefixes hm hp, decodeEvex_cons_eq_ok]
  refine ⟨vl, o.mask, o.src, _, by rw [hX, hB, hb]; exact hread, .inr ⟨o.imm, rest, evexHeader_imm hm h e vl, rfl, ?_⟩⟩
  rw [hW, elemOf_wBit, vvvvOperand, hvvvv, hV', vreg_of_vvvv_fields]

theorem decode_encodeVar {m : Mode} {o : VarForm} (hm : m.admitted = true) (h : o.wf m = true) (e : ElemSize) (vl : VL)
    (rest : List Byte) : decode m (encodeVar e vl o ++ rest) = .ok (.ofVar e vl o) := by
  obtain ⟨hp, -, -, -, hcount⟩ := VarForm.wf_iff.1 h
  have hread := readRM_code hcount (o.dest.extractLsb' 0 3) rest
  obtain ⟨hR, hX, hB, hR', -⟩ :=
    fields_mkP0 (o.dest.extractLsb' 3 1) o.count.code.x o.count.code.b (o.dest.extractLsb' 4 1) 2
  obtain ⟨hW, hvvvv, -⟩ := fields_mkP1 e.wBit (o.src.extractLsb' 0 4)
  obtain ⟨-, -, hb, hV', -⟩ := fields_mkP2 o.mask.zBit vl.field o.count.code.bc (o.src.extractLsb' 4 1) o.mask.aaa
  obtain ⟨-, hreg, -⟩ := fields_mkModRM o.count.code.mod (o.dest.extractLsb' 0 3) o.count.code.rm
  simp only [encodeVar, List.append_assoc, List.cons_append]
  rw [decode_prefixes hm hp, decodeEvex_cons_eq_ok]
  refine ⟨vl, o.mask, o.count, _, by rw [hX, hB, hb]; exact hread, .inl ⟨evexHeader_var hm h e vl, ?_⟩⟩
  rw [hW, elemOf_wBit, vvvvOperand, hvvvv, hV', vreg_of_vvvv_fields, regOperand, hR', hR, hreg, vreg_of_reg_fields]

/-- Decoding the encoding of a well-formed instruction, whatever follows it, gives the instruction (30_encoding.md R48, R70). -/
theorem decode_encode {m : Mode} {i : Instr} (h : i.wf m = true) (rest : List Byte) :
    decode m (encode i ++ rest) = .ok i := by
  rw [Instr.wf_eq, Bool.and_eq_true] at h
  obtain ⟨hm, hform⟩ := h
  conv_rhs => rw [Instr.eq_of_form i]
  rw [encode_eq]
  cases hi : i.form with
  | inl o => exact decode_encodeImm hm (by simpa [hi] using hform) _ _ rest
  | inr o => exact decode_encodeVar hm (by simpa [hi] using hform) _ _ rest

/-- An encoding has `ILEN` bytes (30_encoding.md R65). -/
theorem encode_length (i : Instr) : (encode i).length = i.ilen := by
  rw [encode_eq, Instr.ilen_eq]
  cases i.form with
  | inl o => exact encodeImm_length _ _ o
  | inr o => exact encodeVar_length _ _ o

/-- No instruction is longer than fourteen bytes (30_encoding.md R65). -/
theorem Instr.ilen_le (i : Instr) : i.ilen ≤ 14 := by
  have hprefixes (p : Prefixes) : p.count ≤ 2 := by cases p <;> simp [Prefixes.count]
  have hdisp (d : Disp) : d.size ≤ 4 := by cases d <;> simp [Disp.size]
  have htail (rm : RM) : rm.tailSize ≤ 5 := by
    cases rm with
    | reg r => simp [RM.tailSize]
    | mem a bcast =>
      cases a with
      | disp32 v => simp [RM.tailSize]
      | base b d => have := hdisp d; simp only [RM.tailSize]; omega
      | sib ob oi scale d => have := hdisp d; simp only [RM.tailSize]; omega
  rw [Instr.ilen_eq]
  cases i.form with
  | inl o =>
    have := hprefixes o.prefixes
    have := htail o.src
    simp only [Sum.elim_inl, ImmForm.ilen]
    omega
  | inr o =>
    have := hprefixes o.prefixes
    have := htail o.count
    simp only [Sum.elim_inr, VarForm.ilen]
    omega

end Sys2Proof

namespace Sys2Proof.Machine

open Sys2Proof Host

/-- Fetchable bytes of memory are fetched, in order, up to the limit (20_memory.md R46). -/
theorem fetchFrom_eq_append {s : State} {bs : List Byte} {a n : Nat} (hn : bs.length ≤ n)
    (h : ∀ k (hk : k < bs.length), s.fetchable (a + k) = true ∧ s.mem.read (a + k) = bs[k]) :
    ∃ rest, s.fetchFrom a n = bs ++ rest := by
  induction bs generalizing a n with
  | nil => exact ⟨_, rfl⟩
  | cons b bs ih =>
    cases n with
    | zero => simp at hn
    | succ n =>
      obtain ⟨hfetch, hread⟩ := h 0 (by simp)
      obtain ⟨rest, hrest⟩ := ih (a := a + 1) (n := n) (by simpa using hn) fun k hk => by
        rw [Nat.add_right_comm a 1 k]
        exact h (k + 1) (Nat.succ_lt_succ hk)
      simp only [Nat.add_zero, List.getElem_cons_zero] at hfetch hread
      exact ⟨rest, by rw [State.fetchFrom, if_pos hfetch, hread, hrest, List.cons_append]⟩

/-- A step whose fetched bytes decode to an instruction is that instruction's meaning. -/
theorem step_of_decode {s : State} {i : Instr} (h : decode s.mode s.fetchBytes = .ok i) : step s = exec i s := by
  simp only [step, h]

/-- Settles O42: the fetched bytes begin with the encoding, which decodes to the instruction (`decode_encode`). -/
theorem stepRunsTheDecodedInstruction : Obligations.StepRunsTheDecodedInstruction := by
  have hfetched (s : State) (i : Instr) (rest : List Byte) (hwf : i.wf s.mode = true)
      (hbytes : s.fetchBytes = encode i ++ rest) : step s = exec i s :=
    step_of_decode (by rw [hbytes, decode_encode hwf])
  refine ⟨fun s i hwf hmem => ?_, hfetched, fun s i => step_of_decode⟩
  have hlen : (encode i).length ≤ Config.maxFetch := by
    rw [encode_length]
    exact i.ilen_le.trans (by decide)
  obtain ⟨rest, hbytes⟩ := fetchFrom_eq_append hlen hmem
  exact hfetched s i rest hwf hbytes

end Sys2Proof.Machine

/-! ## The bytes fetched at pc -/

namespace Sys2Proof.Machine

open Sys2Proof Host

/-! ### What can be fetched -/

/-- Outside `Mode64` every address is canonical; in it the addresses below and above the hole (20_memory.md R39). -/
theorem canonical_iff {s : State} {a : Nat} : s.canonical a = true ↔
    (s.mode = .mode64 → a < 2 ^ (if s.env.fiveLevelPaging then 56 else 47) ∨
      2 ^ 64 - 2 ^ (if s.env.fiveLevelPaging then 56 else 47) ≤ a) := by
  simp only [State.canonical, Bool.or_eq_true, bne_iff_ne, decide_eq_true_eq, or_assoc, ne_eq, imp_iff_not_or]

theorem Span.holds_iff {w : Span} {a : Nat} : w.holds a = true ↔ w.first ≤ a ∧ a ≤ w.last := by
  simp only [Span.holds, Bool.and_eq_true, decide_eq_true_eq]

theorem fetchable_iff {s : State} {a : Nat} : s.fetchable a = true ↔
    a < 2 ^ s.addressWidth ∧ s.canonical a = true ∧ ∀ w ∈ s.env.noFetch, ¬ (w.first ≤ a ∧ a ≤ w.last) := by
  simp only [State.fetchable, Bool.and_eq_true, decide_eq_true_eq, Bool.not_eq_true', List.any_eq_false, Span.holds_iff,
    and_assoc]

/-- Byte `k` is fetched exactly when it and every byte before it can be, and it is then the byte of memory. -/
theorem getElem?_fetchFrom_eq_some {s : State} {n a k : Nat} {b : Byte} : (s.fetchFrom a n)[k]? = some b ↔
    k < n ∧ (∀ j ≤ k, s.fetchable (a + j) = true) ∧ b = s.mem.read (a + k) := by
  induction n generalizing a k with
  | zero => simp [State.fetchFrom]
  | succ n ih =>
    by_cases hfetch : s.fetchable a = true
    · rw [State.fetchFrom, if_pos hfetch]
      cases k with
      | zero =>
        simp only [List.getElem?_cons_zero, Option.some.injEq, Nat.succ_pos, Nat.le_zero, forall_eq, Nat.add_zero, hfetch,
          true_and, eq_comm]
      | succ k =>
        have hall : (∀ j ≤ k + 1, s.fetchable (a + j) = true) ↔ ∀ j ≤ k, s.fetchable (a + (j + 1)) = true := by
          refine ⟨fun h j hj => h (j + 1) (Nat.succ_le_succ hj), fun h j hj => ?_⟩
          cases j with
          | zero => exact hfetch
          | succ j => exact h j (Nat.le_of_succ_le_succ hj)
        simp only [List.getElem?_cons_succ, ih, hall, Nat.add_lt_add_iff_right, Nat.add_assoc, Nat.add_comm 1]
    · rw [State.fetchFrom, if_neg hfetch]
      simp only [List.getElem?_nil, reduceCtorEq, false_iff]
      rintro ⟨-, hall, -⟩
      exact hfetch (hall 0 (Nat.zero_le k))

/-- Settles O41: the conditions of `State.fetchable` taken apart, and the bytes that `State.fetchFrom` collects. -/
theorem fetchedBytesAreTheMemoryAtPc : Obligations.FetchedBytesAreTheMemoryAtPc := by
  refine ⟨fun s a => ?_, fun s k b => getElem?_fetchFrom_eq_some⟩
  rw [fetchable_iff, canonical_iff]

/-- Bytes of memory before one that cannot be fetched are all that is fetched (20_memory.md R46). -/
theorem fetchBytes_eq_of_cut {s : State} {bs : List Byte} (hlen : bs.length ≤ Config.maxFetch) (h : BytesAtPc s bs)
    (hcut : s.fetchable (s.pc.toNat + bs.length) = false) : s.fetchBytes = bs := by
  obtain ⟨rest, hrest⟩ := fetchFrom_eq_append hlen h
  cases rest with
  | nil => exact hrest.trans bs.append_nil
  | cons b rest =>
    have hbyte : s.fetchBytes[bs.length]? = some b := by
      rw [State.fetchBytes, hrest, List.getElem?_append_right (le_refl _), Nat.sub_self, List.getElem?_cons_zero]
    obtain ⟨-, hfetch, -⟩ := getElem?_fetchFrom hbyte
    rw [hcut] at hfetch
    cases hfetch

/-- A step whose fetched bytes end inside an instruction is refused (20_memory.md R46; D8). -/
theorem step_of_truncated {s : State} (h : decode s.mode s.fetchBytes = .truncated) : step s = .refused .notFetchable := by
  simp only [step, h]
  rfl

end Sys2Proof.Machine

/-! ## Encodings cut short -/

namespace Sys2Proof

/-! ### What the decoder answers where the bytes end -/

/-- A reader that takes all of some bytes reads nothing from fewer of them. -/
theorem ReadsPrefix.take_eq_none {α : Type} {read : List Byte → Option (α × List Byte)} {size : α → Nat}
    (h : ReadsPrefix read size) {bs : List Byte} {x : α} (hx : read bs = some (x, [])) {k : Nat} (hk : k < bs.length) :
    read (bs.take k) = none := by
  rw [Option.eq_none_iff_forall_ne_some]
  rintro ⟨y, rest⟩ hy
  obtain ⟨pre, htake, -, hpre⟩ := h hy
  have hwhole : read bs = some (y, rest ++ bs.drop k) := by
    rw [← hpre, ← List.append_assoc, ← htake, List.take_append_drop]
  rw [hx, Option.some.injEq, Prod.mk.injEq] at hwhole
  obtain ⟨-, hend⟩ := hwhole
  have hdrop := List.drop_eq_nil_iff.1 (List.append_eq_nil_iff.1 hend.symm).2
  omega

/-- Admitted legacy bytes, or the first of them, with nothing after them are no whole instruction (30_encoding.md R70
step 1). -/
theorem scanPrefixes_take {m : Mode} {p : Prefixes} (hp : p.wf m = true) (n : Nat) :
    scanPrefixes m .noPrefix (p.bytes.take n) = .truncated := by
  have h67 : segOverride 0x67 = none := by decide
  match n with
  | 0 => rfl
  | 1 => cases p <;> simp_all [Prefixes.wf, Prefixes.bytes, scanPrefixes, Prefixes.addSeg, Prefixes.addAddr]
  | n + 2 => cases p <;> simp_all [Prefixes.wf, Prefixes.bytes, scanPrefixes, Prefixes.addSeg, Prefixes.addAddr]

/-- An encoding cut short is `truncated` if it is so when the cut comes after 0x62. -/
theorem decode_take_eq_truncated {m : Mode} {p : Prefixes} {rest : List Byte} (hm : m ≠ .code16) (hp : p.wf m = true)
    (hcut : ∀ k < rest.length, decodeEvex m p false (rest.take k) = .truncated) {n : Nat}
    (hn : n < (p.bytes ++ 0x62 :: rest).length) : decode m ((p.bytes ++ 0x62 :: rest).take n) = .truncated := by
  rcases Nat.lt_or_ge p.bytes.length n with hlong | hshort
  · obtain ⟨k, rfl⟩ := Nat.exists_eq_add_of_lt hlong
    have hk : k < rest.length := by
      rw [List.length_append, List.length_cons] at hn
      omega
    rw [Nat.add_assoc, List.take_length_add_append, List.take_succ_cons,
      decode_of_found hm (scanPrefixes_bytes hp (by decide) (by decide) _), decodeAfterPrefixes_evex, hcut k hk]
  · rw [List.take_append_of_le_length hshort, decode, if_neg hm, scanPrefixes_take hp]

/-- The bytes after 0x62 up to ModRM select a row of kind `f` in the mode (30_encoding.md R68, R70 steps 4 to 6). -/
def SelectsRow (m : Mode) (p0 p1 opcode modrm : Byte) (f : OpEn) : Prop :=
  (m ≠ .mode64 → p0.extractLsb' 6 2 = 3) ∧ p0.extractLsb' 2 2 = 0 ∧ p1.extractLsb' 2 1 = 1 ∧
    rowOf (p0mm p0) (p1pp p1) opcode (fieldReg modrm) = some f

section

variable {m : Mode} {p0 p1 opcode modrm : Byte} {f : OpEn}

theorem SelectsRow.not_bound (h : SelectsRow m p0 p1 opcode modrm f) : ¬ (m ≠ .mode64 ∧ p0.extractLsb' 6 2 ≠ 3) :=
  let ⟨htop, _⟩ := h
  fun ⟨hm, hbound⟩ => hbound (htop hm)

theorem SelectsRow.fixedBits (h : SelectsRow m p0 p1 opcode modrm f) :
    ¬ (p0.extractLsb' 2 2 ≠ 0 ∨ p1.extractLsb' 2 1 ≠ 1) := by
  obtain ⟨-, h0, h1, -⟩ := h
  exact not_or.2 ⟨not_not.2 h0, not_not.2 h1⟩

theorem SelectsRow.rowOf (h : SelectsRow m p0 p1 opcode modrm f) :
    rowOf (p0mm p0) (p1pp p1) opcode (fieldReg modrm) = some f :=
  let ⟨_, _, _, hrow⟩ := h
  hrow

/-- The fetch refusal comes before every #UD (60_exceptions.md R113): bytes that end inside the operand. -/
theorem decodeEvex_of_readRM_eq_none (h : SelectsRow m p0 p1 opcode modrm f) {p2 : Byte} {rest : List Byte}
    (hrm : readRM (p0X p0) (p0B p0) (p2b p2) modrm rest = none) (p : Prefixes) (bad : Bool) :
    decodeEvex m p bad (p0 :: p1 :: p2 :: opcode :: modrm :: rest) = .truncated := by
  simp only [decodeEvex, if_neg h.not_bound, if_neg h.fixedBits, h.rowOf, hrm]

/-- The fetch refusal comes before every #UD (60_exceptions.md R113): bytes of an immediate form that end before the
immediate. -/
theorem decodeEvex_of_no_immediate (h : SelectsRow m p0 p1 opcode modrm .a) {p2 : Byte} {rest : List Byte} {rm : RM}
    (hrm : readRM (p0X p0) (p0B p0) (p2b p2) modrm rest = some (rm, [])) (p : Prefixes) (bad : Bool) :
    decodeEvex m p bad (p0 :: p1 :: p2 :: opcode :: modrm :: rest) = .truncated := by
  simp only [decodeEvex, if_neg h.not_bound, if_neg h.fixedBits, h.rowOf, hrm]

/-- The bytes after 0x62 that end before or with ModRM, or later where every later cut is `truncated`. -/
theorem decodeEvex_take_eq_truncated {p : Prefixes} {bad : Bool} {p2 : Byte} {body : List Byte}
    (hbody : ∀ k < body.length, decodeEvex m p bad (p0 :: p1 :: p2 :: opcode :: modrm :: body.take k) = .truncated) :
    ∀ k < (p0 :: p1 :: p2 :: opcode :: modrm :: body).length,
      decodeEvex m p bad ((p0 :: p1 :: p2 :: opcode :: modrm :: body).take k) = .truncated
  | 0, _ | 1, _ | 2, _ | 3, _ | 4, _ => rfl
  | k + 5, hk => hbody k (by simpa using hk)

end

/-! ### Modes in which the bytes are laid out alike -/

/-- The mode with the encodings in which bytes are laid out as in `m`: outside `Mode64` as in `Mode32` (30_encoding.md R53;
log entry 9). -/
def Mode.layout (m : Mode) : Mode := if m = .mode64 then .mode64 else .mode32

theorem Mode.layout_of_admitted {m : Mode} (h : m.admitted = true) : m.layout = m := by
  obtain rfl | rfl := Mode.admitted_iff.1 h <;> rfl

theorem Mode.layout_admitted (m : Mode) : m.layout.admitted = true := by cases m <;> rfl

theorem Prefixes.wf_layout (m : Mode) (p : Prefixes) : p.wf m.layout = p.wf m := by cases m <;> cases p <;> rfl

/-- A header of the layout's mode selects a row in the mode itself. -/
theorem EvexHeader.selectsRow {m : Mode} {bad : Bool} {p0 p1 p2 opcode modrm : Byte} {f : OpEn} {vl : VL} {k : Masking}
    (h : EvexHeader m.layout bad p0 p1 p2 opcode modrm f vl k) : SelectsRow m p0 p1 opcode modrm f := by
  obtain ⟨hbound, hfixed, hrow, -⟩ := h
  obtain ⟨h0, h1⟩ := not_or.1 hfixed
  refine ⟨fun hm => ?_, not_not.1 h0, not_not.1 h1, hrow⟩
  have hlayout : m.layout ≠ .mode64 := by cases m <;> simp_all [Mode.layout]
  exact not_not.1 fun htop => hbound ⟨hlayout, htop⟩

/-! ### Instructions cut short -/

/-- The operand of an encoding, whole and cut short (30_encoding.md R53). -/
theorem readRM_code_take {m : Mode} {rm : RM} (h : rm.wf m = true) {x b bc : BitVec 1} (hx : x = rm.code.x)
    (hb : b = rm.code.b) (hbc : bc = rm.code.bc) (reg : BitVec 3) (k : Nat) :
    readRM x b bc (mkModRM rm.code.mod reg rm.code.rm) (rm.code.tail.take k) =
      if k < rm.code.tail.length then none else some (rm, []) := by
  subst hx hb hbc
  have hwhole := readRM_code h reg []
  rw [List.append_nil] at hwhole
  split
  next hk => exact (readRM_readsPrefix _ _ _ _).take_eq_none hwhole hk
  next hk => rw [List.take_of_length_le (Nat.not_lt.1 hk), hwhole]

theorem decode_encodeImm_take {m : Mode} {o : ImmForm} (hm : m ≠ .code16) (h : o.wf m.layout = true) (e : ElemSize)
    (vl : VL) {n : Nat} (hn : n < (encodeImm e vl o).length) : decode m ((encodeImm e vl o).take n) = .truncated := by
  obtain ⟨hp, -, -, hsrc⟩ := ImmForm.wf_iff.1 h
  have hrow := (evexHeader_imm m.layout_admitted h e vl).selectsRow
  obtain ⟨-, hX, hB, -⟩ := fields_mkP0 0 o.src.code.x o.src.code.b 0 1
  obtain ⟨-, -, hb, -⟩ := fields_mkP2 o.mask.zBit vl.field o.src.code.bc (o.dest.extractLsb' 4 1) o.mask.aaa
  refine decode_take_eq_truncated hm (Prefixes.wf_layout m _ ▸ hp) (decodeEvex_take_eq_truncated fun k hk => ?_) hn
  have hbody : (o.src.code.tail ++ [o.imm]).take k = o.src.code.tail.take k :=
    List.take_append_of_le_length (by simpa [Nat.lt_succ_iff] using hk)
  have hread := readRM_code_take hsrc hX hB hb 1 k
  rw [hbody]
  split at hread
  · exact decodeEvex_of_readRM_eq_none hrow hread _ _
  · exact decodeEvex_of_no_immediate hrow hread _ _

theorem decode_encodeVar_take {m : Mode} {o : VarForm} (hm : m ≠ .code16) (h : o.wf m.layout = true) (e : ElemSize)
    (vl : VL) {n : Nat} (hn : n < (encodeVar e vl o).length) : decode m ((encodeVar e vl o).take n) = .truncated := by
  obtain ⟨hp, -, -, -, hcount⟩ := VarForm.wf_iff.1 h
  have hrow := (evexHeader_var m.layout_admitted h e vl).selectsRow
  obtain ⟨-, hX, hB, -⟩ :=
    fields_mkP0 (o.dest.extractLsb' 3 1) o.count.code.x o.count.code.b (o.dest.extractLsb' 4 1) 2
  obtain ⟨-, -, hb, -⟩ := fields_mkP2 o.mask.zBit vl.field o.count.code.bc (o.src.extractLsb' 4 1) o.mask.aaa
  refine decode_take_eq_truncated hm (Prefixes.wf_layout m _ ▸ hp) (decodeEvex_take_eq_truncated fun k hk => ?_) hn
  exact decodeEvex_of_readRM_eq_none hrow ((readRM_code_take hcount hX hB hb _ k).trans (if_pos hk)) _ _

/-- The encoding of an instruction, cut short, is `truncated` in its mode and in every mode that lays out bytes alike
(20_memory.md R46). -/
theorem decode_encode_take {m : Mode} {i : Instr} (hm : m ≠ .code16) (h : i.wf m.layout = true) {n : Nat}
    (hn : n < (encode i).length) : decode m ((encode i).take n) = .truncated := by
  rw [Instr.wf_eq, Bool.and_eq_true] at h
  obtain ⟨-, hform⟩ := h
  rw [encode_eq] at hn ⊢
  cases hi : i.form with
  | inl o => exact decode_encodeImm_take hm (by simpa [hi] using hform) _ _ (by simpa [hi] using hn)
  | inr o => exact decode_encodeVar_take hm (by simpa [hi] using hform) _ _ (by simpa [hi] using hn)

/-! ### Bytes up to ModRM behind prefixes -/

/-- A forbidden byte is no segment override and not 0x67 (30_encoding.md R66). -/
theorem segOverride_of_forbiddenPrefix {m : Mode} {b : Byte} (h : forbiddenPrefix m b = true) :
    segOverride b = none ∧ b ≠ 0x67 := by
  have hmode64 : ∀ b : Byte, forbiddenPrefix .mode64 b = true → segOverride b = none ∧ b ≠ 0x67 := by decide
  refine hmode64 b ?_
  cases m <;> simp_all [forbiddenPrefix]

/-- Behind admitted prefixes, and a forbidden byte or none, decoding goes on after 0x62 (30_encoding.md R70 steps 1
and 2). -/
theorem decode_prefixes_forbidden {m : Mode} {p : Prefixes} (hm : m ≠ .code16) (hp : p.wf m = true) {f : Option Byte}
    (hf : ∀ x, f = some x → forbiddenPrefix m x = true) (rest : List Byte) :
    decode m (p.bytes ++ f.toList ++ 0x62 :: rest) = decodeEvex m p f.isSome rest := by
  rw [List.append_assoc]
  cases f with
  | none =>
    refine (decode_of_found hm (scanPrefixes_bytes hp (by decide) (by decide) rest)).trans ?_
    exact decodeAfterPrefixes_evex m p rest
  | some x =>
    have hx := hf x rfl
    obtain ⟨hseg, h67⟩ := segOverride_of_forbiddenPrefix hx
    refine (decode_of_found hm (scanPrefixes_bytes hp hseg h67 (0x62 :: rest))).trans ?_
    simp [decodeAfterPrefixes, skipForbidden, hx]

/-- An immediate form needs a byte after ModRM, whatever the operand (30_encoding.md R55). -/
theorem decodeEvex_modrm_eq_truncated {m : Mode} {p0 p1 opcode modrm : Byte} (h : SelectsRow m p0 p1 opcode modrm .a)
    (p : Prefixes) (bad : Bool) (p2 : Byte) : decodeEvex m p bad [p0, p1, p2, opcode, modrm] = .truncated := by
  cases hrm : readRM (p0X p0) (p0B p0) (p2b p2) modrm [] with
  | none => exact decodeEvex_of_readRM_eq_none h hrm p bad
  | some read =>
    obtain ⟨rm, rest⟩ := read
    obtain ⟨pre, hnil, -, -⟩ := readRM_readsPrefix _ _ _ _ hrm
    obtain ⟨-, rfl⟩ := List.append_eq_nil_iff.1 hnil.symm
    exact decodeEvex_of_no_immediate h hrm p bad

end Sys2Proof

namespace Sys2Proof.Machine

open Sys2Proof Host

/-- Settles O48: a cut encoding decodes to `truncated` before any #UD is judged (`decode_encode_take`,
`decodeEvex_modrm_eq_truncated`). -/
theorem fetchRefusalComesFirst : Obligations.FetchRefusalComesFirst := by
  constructor
  · intro s i n hmode hn
    obtain ⟨hcode16, hlayout⟩ : s.mode ≠ .code16 ∧ i.wf s.mode.layout = true := by
      obtain ⟨hadmitted, hwf⟩ | ⟨hreal | hvirtual, hwf⟩ := hmode
      · refine ⟨fun h => ?_, by rwa [Mode.layout_of_admitted hadmitted]⟩
        rw [h] at hadmitted
        cases hadmitted
      · rw [hreal]
        exact ⟨nofun, hwf⟩
      · rw [hvirtual]
        exact ⟨nofun, hwf⟩
    have hfetched (hbytes : s.fetchBytes = (encode i).take n) : step s = .refused .notFetchable :=
      step_of_truncated (by rw [hbytes, decode_encode_take hcode16 hlayout hn])
    refine ⟨fun hmem hcut => hfetched ?_, hfetched⟩
    have hlen : ((encode i).take n).length = n := List.length_take_of_le hn.le
    refine fetchBytes_eq_of_cut ?_ hmem (by rwa [hlen])
    rw [hlen]
    exact (hn.le.trans (encode_length i ▸ i.ilen_le)).trans (by decide)
  · intro s p f p0 p1 p2 opcode modrm hmode hp hf htop h0 h1 hrow hbytes
    have hp : p.wf s.mode = true := Prefixes.wf_layout s.mode p ▸ hp
    refine step_of_truncated ?_
    rw [hbytes, decode_prefixes_forbidden hmode hp hf]
    exact decodeEvex_modrm_eq_truncated ⟨htop, h0, h1, hrow⟩ p _ p2

end Sys2Proof.Machine

/-! ## The bytes of a memory operand -/

namespace Sys2Proof.Machine

open Sys2Proof Host

/-! ### Bytes as numbers -/

/-- Bit `i` of a little-endian number is bit `i % 8` of byte `i / 8` (20_memory.md R31). -/
theorem testBit_leNat (m : Memory) (a n i : Nat) :
    (leNat m a n).testBit i = (decide (i < n * 8) && (m.read (a + i / 8)).getLsbD (i % 8)) := by
  induction n generalizing a i with
  | zero => simp [leNat]
  | succ n ih =>
    have hsum : leNat m a (n + 1) = 2 ^ 8 * leNat m (a + 1) n + (m.read a).toNat := Nat.add_comm _ _
    rw [hsum, Nat.testBit_two_pow_mul_add _ (m.read a).isLt]
    split
    next hi =>
      have hbyte : i / 8 = 0 := Nat.div_eq_of_lt hi
      have htop : i < (n + 1) * 8 := by omega
      simp only [BitVec.testBit_toNat, hbyte, Nat.mod_eq_of_lt hi, htop, decide_true, Bool.true_and, Nat.add_zero]
    next hi =>
      have hbyte : a + 1 + (i - 8) / 8 = a + i / 8 := by omega
      have hbit : (i - 8) % 8 = i % 8 := by omega
      have htop : i - 8 < n * 8 ↔ i < (n + 1) * 8 := by omega
      simp only [ih, hbyte, hbit, htop]

/-- Bytes of memory packed into a vector are their little-endian number. -/
theorem packLanes_toNat_eq_leNat (m : Memory) (a : Nat) {n : Nat} (hn : n ≤ 64) :
    (packLanes 8 (fun i => m.read (a + i)) n).toNat = leNat m a n := by
  apply Nat.eq_of_testBit_eq
  intro i
  have hfits : i < n * 8 → i < 512 := by omega
  rw [BitVec.testBit_toNat, packLanes_getLsbD (by decide), testBit_leNat]
  by_cases hi : i < n * 8
  · simp only [hi, hfits hi, decide_true, Bool.true_and]
  · simp only [hi, decide_false, Bool.and_false, Bool.false_and]

theorem bits_eq_bytes_mul (e : ElemSize) : e.bits = e.bits / 8 * 8 := by cases e <;> rfl

/-- An element whose bytes are those of memory at `a` is their little-endian number (20_memory.md R32). -/
theorem lane_packLanes_bytes {m : Memory} {a n j : Nat} {e : ElemSize} {f : Nat → Byte} (hn : n ≤ 64)
    (hj : (j + 1) * (e.bits / 8) ≤ n) (hf : ∀ k < e.bits / 8, f (j * (e.bits / 8) + k) = m.read (a + k)) :
    lane e.bits (packLanes 8 f n) j = BitVec.ofNat e.bits (leNat m a (e.bits / 8)) := by
  apply BitVec.eq_of_getLsbD_eq
  intro i hi
  have hwidth := bits_eq_bytes_mul e
  generalize hq : e.bits / 8 = q at hj hf hwidth
  have hk : i / 8 < q := by omega
  have hstart : j * e.bits = j * q * 8 := by rw [hwidth, Nat.mul_assoc]
  have hbyte : (j * e.bits + i) / 8 = j * q + i / 8 := by omega
  have hbit : (j * e.bits + i) % 8 = i % 8 := by omega
  have htop : j * e.bits + i < n * 8 := by
    rw [Nat.succ_mul] at hj
    omega
  have hfits : j * e.bits + i < 512 := by omega
  have hlow : i < q * 8 := hwidth ▸ hi
  rw [lane_getLsbD, packLanes_getLsbD (by decide), BitVec.getLsbD_ofNat, testBit_leNat, hbyte, hbit, hf _ hk]
  simp only [hi, htop, hfits, hlow, decide_true, Bool.true_and]

/-! ### What a read gives -/

/-- An element all of whose bytes are accessed holds the little-endian number of its bytes (20_memory.md R32). -/
theorem lane_of_memRead {s : State} {g : Seg} {la n j : Nat} {acc : Nat → Bool} {v : Vec} {e : ElemSize}
    (h : memRead s g la n acc = .next v) (hn : n ≤ 64) (hj : (j + 1) * (e.bits / 8) ≤ n)
    (hacc : ∀ k < e.bits / 8, acc (j * (e.bits / 8) + k) = true) :
    lane e.bits v j = BitVec.ofNat e.bits (leNat s.mem (la + j * (e.bits / 8)) (e.bits / 8)) := by
  obtain ⟨-, -, -, -, rfl⟩ := memRead_eq_next.1 h
  exact lane_packLanes_bytes hn hj fun k hk => by rw [if_pos (hacc k hk), Nat.add_assoc]

/-- A doubleword of a vector is a half of a quadword (20_memory.md R32). -/
theorem lane_dword_eq (v : Vec) (j : Nat) : lane 32 v (2 * j) = (lane 64 v j).extractLsb' 0 32 ∧
    lane 32 v (2 * j + 1) = (lane 64 v j).extractLsb' 32 32 := by
  have hhalf (k : Nat) (hk : k + 32 ≤ 64) : (lane 64 v j).extractLsb' k 32 = v.extractLsb' (j * 64 + k) 32 := by
    apply BitVec.eq_of_getLsbD_eq
    intro b hb
    have hin : k + b < 64 := by omega
    simp only [BitVec.getLsbD_extractLsb', lane_getLsbD, hin, decide_true, Bool.true_and, Nat.add_assoc]
  rw [hhalf 0 (by decide), hhalf 32 (by decide)]
  constructor <;> exact congrArg (v.extractLsb' · 32) (by omega)

/-- Settles O5: a read packs the accessed bytes, here all of them, and the byte at the lowest address is lowest
(`packLanes_toNat_eq_leNat`, `lane_of_memRead`). -/
theorem memoryElementsAreLittleEndian : Obligations.MemoryElementsAreLittleEndian := by
  refine ⟨fun s g la n v hn h => ⟨?_, fun e j hj => lane_of_memRead h hn hj fun _ _ => rfl⟩,
    fun v j _ => lane_dword_eq v j⟩
  obtain ⟨-, -, -, -, rfl⟩ := memRead_eq_next.1 h
  exact packLanes_toNat_eq_leNat s.mem la hn

theorem operandBytes_le (e : ElemSize) (vl : VL) (bcast : Bool) : operandBytes e vl bcast ≤ 64 := by
  cases e <;> cases vl <;> cases bcast <;> decide

/-- Every byte of an enabled element is accessed, and so is every byte where faults are not suppressed (20_memory.md
R36). -/
theorem accesses_of_enabled {s : State} {e : ElemSize} {vl : VL} {m : Masking} {j : Nat} (hj : j < laneCount e vl)
    (h : s.env.faultSuppression = false ∨ s.enabled m j = true) {k : Nat} (hk : k < e.bits / 8) :
    s.accesses e vl m true k = true ∧ s.accesses e vl m false (j * (e.bits / 8) + k) = true := by
  obtain hoff | henabled := h
  · simp only [State.accesses, hoff, Bool.not_false, Bool.true_or, and_self]
  · have hany : (List.range (laneCount e vl)).any (fun j => s.enabled m j) = true :=
      List.any_eq_true.2 ⟨j, List.mem_range.2 hj, henabled⟩
    have helement : (j * (e.bits / 8) + k) * 8 / e.bits = j := by
      rw [Nat.div_eq_iff (bits_pos e)]
      cases e <;> simp only [ElemSize.bits] at hk ⊢ <;> omega
    simp only [State.accesses, hany, helement, henabled, if_true, Bool.false_eq_true, if_false, Bool.or_true, and_self]

/-- The element of a read operand that element `j` uses, where FaultSuppression does not exempt it, is the operand's
element `j`: of a register, or the little-endian number of its bytes of memory (20_memory.md R32, R33, R36). -/
theorem rmLane_of_readRM {s : State} {p : Prefixes} {len : Nat} {e : ElemSize} {vl : VL} {m : Masking} {rm : RM} {v : Vec}
    (h : s.readRM p len e vl m rm = .next v) {j : Nat} (hj : j < laneCount e vl)
    (hacc : s.env.faultSuppression = false ∨ s.enabled m j = true) :
    rmLane e rm v j = operandElement s p len e vl j rm := by
  cases rm with
  | reg r =>
    cases h
    rfl
  | mem a bcast =>
    have hbytes := operandBytes_le e vl bcast
    cases bcast with
    | true =>
      have hlane : lane e.bits v 0 = _ := lane_of_memRead h hbytes (by simp [operandBytes]) fun k hk => by
        rw [Nat.zero_mul, Nat.zero_add]
        exact (accesses_of_enabled hj hacc hk).1
      rwa [Nat.zero_mul] at hlane
    | false =>
      have hfits : (j + 1) * (e.bits / 8) ≤ operandBytes e vl false := by
        have hlanes : (j + 1) * e.bits ≤ vl.bits := laneCount_mul_bits e vl ▸ Nat.mul_le_mul_right _ hj
        rw [bits_eq_bytes_mul e, ← Nat.mul_assoc] at hlanes
        exact (Nat.le_div_iff_mul_le (by decide)).2 hlanes
      exact lane_of_memRead h hbytes hfits fun k hk => (accesses_of_enabled hj hacc hk).2

/-! ### Which bytes a read depends on -/

/-- A read depends on the accessed bytes of memory only. -/
theorem memRead_setMem {s : State} {mem' : Memory} {la n : Nat} {acc : Nat → Bool}
    (h : ∀ i < n, acc i = true → mem'.read (la + i) = s.mem.read (la + i)) (g : Seg) :
    memRead (s.setMem mem') g la n acc = memRead s g la n acc := by
  have hbytes : packLanes 8 (fun i => if acc i then mem'.read (la + i) else 0) n =
      packLanes 8 (fun i => if acc i then s.mem.read (la + i) else 0) n :=
    packLanes_congr fun i hi => by
      cases hacc : acc i with
      | true => simp only [if_true, h i hi hacc]
      | false => rfl
  unfold memRead
  rw [setMem_mem, hbytes]
  rfl

/-- Settles O6: every element uses element 0 of the operand, whose bytes are all that the read can access
(`rmLane_of_readRM`, `memRead_setMem`). -/
theorem broadcastReadsOneElement : Obligations.BroadcastReadsOneElement := by
  intro s p len e vl m a v hacc h
  obtain ⟨j, hj, hread⟩ : ∃ j < laneCount e vl, s.env.faultSuppression = false ∨ s.enabled m j = true := by
    obtain hoff | ⟨j, hj, henabled⟩ := hacc
    · exact ⟨0, laneCount_pos e vl, .inl hoff⟩
    · exact ⟨j, hj, .inr henabled⟩
  have helement := rmLane_of_readRM h hj hread
  exact ⟨fun _ => helement, fun mem' hmem => (memRead_setMem (fun i hi _ => hmem i hi) _).trans h⟩

/-! ### FaultSuppression -/

/-- A read that completes still does when fewer of its bytes are accessed (20_memory.md R36). -/
theorem memRead_completes_of_fewer {s : State} {g : Seg} {la n : Nat} {acc acc' : Nat → Bool} {v : Vec}
    (h : memRead s g la n acc = .next v) (hfewer : ∀ i < n, acc' i = true → acc i = true) :
    ∃ v', memRead s g la n acc' = .next v' := by
  obtain ⟨hspace, halign, hdevice, hreadable, -⟩ := memRead_eq_next.1 h
  have hsub : ∀ a ∈ accessedAddresses la n acc', a ∈ accessedAddresses la n acc := by
    intro a ha
    obtain ⟨i, hi, hacc, rfl⟩ := mem_accessedAddresses.1 ha
    exact mem_accessedAddresses.2 ⟨i, hi, hfewer i hi hacc, rfl⟩
  refine ⟨_, memRead_eq_next.2 ⟨hspace, halign, ?_, ?_, rfl⟩⟩
  · rw [List.any_eq_false] at hdevice ⊢
    exact fun a ha => hdevice a (hsub a ha)
  · rw [memReadable_eq_none] at hreadable ⊢
    exact fun a ha => hreadable a (hsub a ha)

/-- The same state with FaultSuppression on (20_memory.md R36; D5). -/
def State.suppressFaults (s : State) : State := { s with env := { s.env with faultSuppression := true } }

/-- An operand that can be read without FaultSuppression can be read with it. -/
theorem readRM_suppressFaults {s : State} (hoff : s.env.faultSuppression = false) {p : Prefixes} {len : Nat} {e : ElemSize}
    {vl : VL} {m : Masking} {rm : RM} {v : Vec} (h : s.readRM p len e vl m rm = .next v) :
    ∃ v', s.suppressFaults.readRM p len e vl m rm = .next v' := by
  cases rm with
  | reg r => exact ⟨_, rfl⟩
  | mem a bcast =>
    exact memRead_completes_of_fewer h fun i _ _ => by simp only [State.accesses, hoff, Bool.not_false, Bool.true_or]

/-- The new destination register depends on the rotations of enabled elements only. -/
theorem maskedResult_congr_enabled {s : State} {e : ElemSize} {vl : VL} {m : Masking} (d : VReg)
    {rotated rotated' : Nat → BitVec e.bits}
    (hrot : ∀ j < laneCount e vl, s.enabled m j = true → rotated' j = rotated j) :
    s.maskedResult e vl m d rotated' = s.maskedResult e vl m d rotated :=
  packLanes_congr fun j hj => by
    cases henabled : s.enabled m j with
    | true => simp only [State.maskedLane, henabled, if_true, hrot j hj henabled]
    | false => simp only [State.maskedLane, henabled, Bool.false_eq_true, if_false]

/-- A rotated element depends on its own element of the `ModRM:r/m` operand. -/
theorem rotatedElement_congr_operand {s : State} {i : Instr} {v v' : Vec} {j : Nat}
    (h : rmLane i.elem i.operands.rm v' j = rmLane i.elem i.operands.rm v j) :
    rotatedElement s i v' j = rotatedElement s i v j := by
  rw [Instr.operands_eq] at h
  unfold rotatedElement
  cases hform : i.form with
  | inl o =>
    rw [hform] at h
    exact congrArg (rol · _) h
  | inr o =>
    rw [hform] at h
    exact congrArg (fun c : BitVec i.elem.bits => rol _ c.toNat) h

/-- Settles O23: with FaultSuppression fewer bytes are accessed (`memRead_completes_of_fewer`), and those of an enabled
element are among them (`rmLane_of_readRM`). -/
theorem faultSuppressionDoesNotChangeTheResult : Obligations.FaultSuppressionDoesNotChangeTheResult := by
  intro i s t hoff ht
  obtain ⟨hcheck, v, hread, rfl⟩ := exec_eq_next.1 ht
  obtain ⟨v', hread'⟩ := readRM_suppressFaults hoff hread
  have hdest : newDest s i v' = newDest s i v := maskedResult_congr_enabled _ fun j hj henabled => by
    have helement : operandElement s.suppressFaults i.operands.prefixes i.ilen i.elem i.vl j i.operands.rm =
        operandElement s i.operands.prefixes i.ilen i.elem i.vl j i.operands.rm := by cases i.operands.rm <;> rfl
    apply rotatedElement_congr_operand
    rw [rmLane_of_readRM hread hj (.inl hoff), rmLane_of_readRM hread' hj (.inr henabled), helement]
  refine exec_eq_next.2 ⟨hcheck, v', hread', ?_⟩
  rw [← hdest]
  rfl

end Sys2Proof.Machine

/-! ## Decoder and encoder: what decoding gives back -/

namespace Sys2Proof

/-! ### The encoding of an instruction -/

/-- Settles O33 (`decode_encode`). -/
theorem decodeInvertsEncode : Obligations.DecodeInvertsEncode := fun _ _ rest h => decode_encode h rest

/-- Settles O35: the bytes that decode to an instruction begin with its `ILEN` bytes (`decode_readsPrefix`). -/
theorem decodeReadsOnlyTheInstruction : Obligations.DecodeReadsOnlyTheInstruction := by
  intro m bs i h
  obtain ⟨pre, rest, rfl, hlen, hread⟩ := decode_readsPrefix h
  rw [← hlen, List.take_left]
  exact ⟨by simp, hread⟩

theorem Disp.size_le (d : Disp) : d.size ≤ 4 := by cases d <;> simp [Disp.size]

/-- A SIB byte and four displacement bytes are the most that follow ModRM (30_encoding.md R53). -/
theorem RM.tailSize_le (rm : RM) : rm.tailSize ≤ 5 := by
  cases rm with
  | reg r => simp [RM.tailSize]
  | mem a bcast =>
    cases a with
    | disp32 v => simp [RM.tailSize]
    | base b d => exact d.size_le.trans (by simp)
    | sib ob oi scale d => exact Nat.add_le_add_left d.size_le 1

/-- Besides its legacy prefixes an instruction has at least six bytes and at most twelve (30_encoding.md R65). -/
theorem Instr.ilen_mem_bounds (i : Instr) :
    i.operands.prefixes.count + 6 ≤ i.ilen ∧ i.ilen ≤ i.operands.prefixes.count + 12 := by
  rw [Instr.ilen_eq, Instr.operands_eq]
  cases i.form with
  | inl o =>
    have htail := o.src.tailSize_le
    simp only [Sum.elim_inl, ImmForm.ilen, ImmForm.operands]
    omega
  | inr o =>
    have htail := o.count.tailSize_le
    simp only [Sum.elim_inr, VarForm.ilen, VarForm.operands]
    omega

/-- Settles O36: an encoding has `ILEN` bytes (`encode_length`), at most two of them legacy prefixes. -/
theorem encodingLengthBounds : Obligations.EncodingLengthBounds := by
  intro m i _
  obtain ⟨hmin, hmax⟩ := i.ilen_mem_bounds
  rw [encode_length]
  refine ⟨by omega, i.ilen_le, fun hp => ?_⟩
  rw [hp] at hmax
  exact hmax

/-- Settles O40, by running the decoder on the six byte sequences. -/
theorem sampleEncodingsDecode : Obligations.SampleEncodingsDecode := ⟨rfl, rfl, rfl, rfl, rfl, rfl⟩

end Sys2Proof

/-! ## What the decoder reads is well formed -/

namespace Sys2Proof

/-! ### Fields -/

/-- Words of two parts are equal part by part. -/
theorem append_eq_append_iff {v w : Nat} {x x' : BitVec v} {y y' : BitVec w} :
    x ++ y = x' ++ y' ↔ x = x' ∧ y = y' := by
  refine ⟨fun h => ⟨?_, ?_⟩, fun ⟨hx, hy⟩ => by rw [hx, hy]⟩
  · have hleft := congrArg (BitVec.extractLsb' w v) h
    rwa [BitVec.extractLsb'_append_eq_left, BitVec.extractLsb'_append_eq_left] at hleft
  · have hright := congrArg (BitVec.extractLsb' 0 w) h
    rwa [BitVec.extractLsb'_append_eq_right, BitVec.extractLsb'_append_eq_right] at hright

/-- A field of a field is a field of the whole. -/
theorem extractLsb'_of_extractLsb' {w : Nat} (x : BitVec w) (start : Nat) {len k n : Nat} (h : k + n ≤ len) :
    (x.extractLsb' start len).extractLsb' k n = x.extractLsb' (start + k) n := by
  apply BitVec.eq_of_getLsbD_eq
  intro i hi
  have hin : k + i < len := by omega
  simp only [BitVec.getLsbD_extractLsb', hin, decide_true, Bool.true_and, Nat.add_assoc]

/-! ### Registers and masks -/

/-- The low bits of a general register number are its field in ModRM or SIB (30_encoding.md R54). -/
theorem GReg.low_append (x : BitVec 1) (r : BitVec 3) : GReg.low (x ++ r) = r := BitVec.setWidth_append_eq_right

/-- Only an unextended field 4 names the general register 4 (30_encoding.md R57). -/
theorem greg_append_eq_four_iff {x : BitVec 1} {r : BitVec 3} : (x ++ r : GReg) = 4 ↔ x = 0 ∧ r = 4 :=
  append_eq_append_iff (x' := 0#1) (y' := 4#3)

/-- Without extension bits a register number is below 8 (30_encoding.md R68). -/
theorem vreg_of_low_field_lt : ∀ r : BitVec 3, (0#1 ++ 0#1 ++ r : VReg) < 8 := by decide

/-- A general register whose extension bit is clear in `Mode32` is nameable in the mode (30_encoding.md R68). -/
theorem GReg.inMode_append {m : Mode} (hm : m.admitted = true) {x : BitVec 1} (hx : m = .mode32 → x = 0) (r : BitVec 3) :
    GReg.inMode m (x ++ r) = true := by
  have hlow : ∀ r : BitVec 3, GReg.inMode .mode32 (0#1 ++ r) = true := by decide
  obtain rfl | rfl := Mode.admitted_iff.1 hm
  · rfl
  · obtain rfl := hx rfl
    exact hlow r

/-- A vector register below 8 in `Mode32` is nameable in the mode (30_encoding.md R68). -/
theorem VReg.inMode_of_lt {m : Mode} (hm : m.admitted = true) {r : VReg} (hr : m = .mode32 → r < 8) :
    VReg.inMode m r = true := by
  obtain rfl | rfl := Mode.admitted_iff.1 hm
  · rfl
  · exact decide_eq_true (hr rfl)

/-- The masking that `z` and `aaa` select names no K0 (30_encoding.md R62). -/
theorem maskingOf_wf {z : BitVec 1} {aaa : BitVec 3} {k : Masking} (h : maskingOf z aaa = some k) : k.wf = true := by
  unfold maskingOf at h
  split at h
  · split at h <;> cases h
    rfl
  next haaa => split at h <;> cases h <;> exact bne_iff_ne.2 haaa

/-! ### Operands -/

/-- No displacement is read only with `mod = 0`, and not where the base field holds 5 (30_encoding.md R53). -/
theorem readDisp_eq_noDisp {mod : BitVec 2} {wide : Bool} {bs rest : List Byte}
    (h : readDisp mod wide bs = some (.noDisp, rest)) : mod = 0 ∧ wide = false := by
  unfold readDisp at h
  split at h
  next hmod =>
    cases wide with
    | true => simp at h
    | false => exact ⟨hmod, rfl⟩
  · split at h
    · split at h <;> simp at h
    · simp at h

/-- A displacement read with a base fits it, unless base field 5 makes the form one without a base (30_encoding.md R53). -/
theorem fitsBase_of_readDisp {mod : BitVec 2} {bs rest : List Byte} {d : Disp}
    (h : readDisp mod false bs = some (d, rest)) {b : BitVec 1} {r : BitVec 3} (hr : ¬ (mod = 0 ∧ r = 5)) :
    d.fitsBase (b ++ r) = true := by
  rw [Disp.fitsBase, GReg.low_append]
  cases d with
  | noDisp =>
    obtain ⟨hmod, -⟩ := readDisp_eq_noDisp h
    exact bne_iff_ne.2 fun h5 => hr ⟨hmod, h5⟩
  | d8 v => rfl
  | d32 v => rfl

/-- The address form read is one that ModRM and SIB spell, with registers of the mode (30_encoding.md R53, R57, R68). -/
theorem readAddr_wf {m : Mode} (hm : m.admitted = true) {x b : BitVec 1} (hext : m = .mode32 → x = 0 ∧ b = 0)
    {mod : BitVec 2} {rm : BitVec 3} {bs rest : List Byte} {a : Addr} (h : readAddr x b mod rm bs = some (a, rest)) :
    a.wf = true ∧ a.inMode m = true := by
  have hx (r : BitVec 3) : GReg.inMode m (x ++ r) = true := GReg.inMode_append hm (fun h32 => (hext h32).1) r
  have hb (r : BitVec 3) : GReg.inMode m (b ++ r) = true := GReg.inMode_append hm (fun h32 => (hext h32).2) r
  by_cases hsib : rm = 4
  · subst hsib
    cases bs with
    | nil => cases h
    | cons sib bs =>
      rw [readAddr_sib] at h
      obtain ⟨⟨d, rest⟩, hd, ha⟩ := Option.map_eq_some_iff.1 h
      cases ha
      have hindex : ((if x = 0 ∧ fieldReg sib = 4 then none else some (x ++ fieldReg sib) : Option GReg) != some 4) =
          true := by
        split
        · rfl
        next h4 => exact bne_iff_ne.2 fun h => h4 (greg_append_eq_four_iff.1 (Option.some.inj h))
      have hindexMode : GReg.optInMode m (if x = 0 ∧ fieldReg sib = 4 then none else some (x ++ fieldReg sib)) = true := by
        split
        · rfl
        · exact hx _
      cases hbase : (mod == 0 && fieldRm sib == 5) with
      | true =>
        rw [hbase] at hd
        obtain ⟨hmod, -⟩ := Bool.and_eq_true_iff.1 hbase
        obtain rfl := beq_iff_eq.1 hmod
        rw [readDisp_wide] at hd
        obtain ⟨⟨v, _⟩, -, hv⟩ := Option.map_eq_some_iff.1 hd
        cases hv
        exact ⟨Bool.and_eq_true_iff.2 ⟨hindex, rfl⟩, Bool.and_eq_true_iff.2 ⟨rfl, hindexMode⟩⟩
      | false =>
        rw [hbase] at hd
        have hfits : d.fitsBase (b ++ fieldRm sib) = true := fitsBase_of_readDisp hd (by simpa using hbase)
        exact ⟨Bool.and_eq_true_iff.2 ⟨hindex, hfits⟩, Bool.and_eq_true_iff.2 ⟨hb _, hindexMode⟩⟩
  · by_cases hdisp : mod = 0 ∧ rm = 5
    · obtain ⟨rfl, rfl⟩ := hdisp
      rw [readAddr_disp32] at h
      obtain ⟨_, -, ha⟩ := Option.map_eq_some_iff.1 h
      cases ha
      exact ⟨rfl, rfl⟩
    · rw [readAddr_base hsib hdisp] at h
      obtain ⟨⟨d, _⟩, hd, ha⟩ := Option.map_eq_some_iff.1 h
      cases ha
      have hrm : (GReg.low (b ++ rm) != 4) = true := by rw [GReg.low_append, bne_iff_ne]; exact hsib
      exact ⟨Bool.and_eq_true_iff.2 ⟨hrm, fitsBase_of_readDisp hd hdisp⟩, hb _⟩

/-- The `ModRM:r/m` operand read is one of the mode (30_encoding.md R54, R68). -/
theorem readRM_wf {m : Mode} (hm : m.admitted = true) {x b bc : BitVec 1} (hext : m = .mode32 → x = 0 ∧ b = 0)
    {modrm : Byte} {bs rest : List Byte} {rm : RM} (h : readRM x b bc modrm bs = some (rm, rest)) : rm.wf m = true := by
  by_cases hmod : fieldMod modrm = 3
  · rw [readRM_of_mod_eq hmod] at h
    cases h
    refine VReg.inMode_of_lt hm fun h32 => ?_
    obtain ⟨rfl, rfl⟩ := hext h32
    exact vreg_of_low_field_lt _
  · rw [readRM_of_mod_ne hmod] at h
    obtain ⟨⟨a, _⟩, ha, hrm⟩ := Option.map_eq_some_iff.1 h
    cases hrm
    exact Bool.and_eq_true_iff.2 (readAddr_wf hm hext ha)

/-! ### Legacy prefixes -/

theorem addSeg_wf {m : Mode} {p p' : Prefixes} {g : Seg} (h : p.addSeg g = some p') (hp : p.wf m = true) :
    p'.wf m = true := by
  cases p <;> cases h
  · rfl
  · exact hp

/-- In a mode other than `Mode32` that has the encodings, a 0x67 is admitted (30_encoding.md R66). -/
theorem addAddr_wf {p p' : Prefixes} (h : p.addAddr = some p') : p'.wf .mode64 = true := by
  cases p <;> cases h <;> rfl

/-- The legacy prefixes read are admitted in the mode (30_encoding.md R66). -/
theorem scanPrefixes_wf {m : Mode} (hm : m.admitted = true) {p p' : Prefixes} {bs rest : List Byte}
    (h : scanPrefixes m p bs = .found p' rest) (hp : p.wf m = true) : p'.wf m = true := by
  fun_induction scanPrefixes m p bs with
  | case1 => cases h
  | case2 p b bs g hseg q hq ih => exact ih h (addSeg_wf hq hp)
  | case3 => cases h
  | case4 => cases h
  | case5 p bs hm32 q hq _ ih =>
    obtain rfl := (Mode.admitted_iff.1 hm).resolve_right hm32
    exact ih h (addAddr_wf hq)
  | case6 => cases h
  | case7 => cases h; exact hp

/-! ### Whole instructions -/

/-- No unused extension bit is stored as 0: step 10 of R70 refuses nothing. -/
theorem unused_bits_of_eq_none {m : Mode} {f : OpEn} {p0 p1 p2 : Byte} (h : unusedBits m f p0 p1 p2 = none) :
    (f = .a → p0R p0 = 0 ∧ p0R' p0 = 0) ∧
      (m = .mode32 → p0B p0 = 0 ∧ p0R' p0 = 0 ∧ p2V' p2 = 0 ∧ (p1vvvv p1).extractLsb' 3 1 = 0) := by
  unfold unusedBits at h
  split at h
  · cases h
  next ha =>
  split at h
  · cases h
  next h32 => exact ⟨fun hf => by_contra fun hbits => ha ⟨hf, hbits⟩, fun hm => by_contra fun hbits => h32 ⟨hm, hbits⟩⟩

/-- `P0[7:6] = 11` stores `R` and `X` as 0 (30_encoding.md R49, R68). -/
theorem p0R_p0X_of_top {p0 : Byte} (h : p0.extractLsb' 6 2 = 3) : p0R p0 = 0 ∧ p0X p0 = 0 := by
  have hR := extractLsb'_of_extractLsb' p0 6 (len := 2) (k := 1) (n := 1) (le_refl _)
  have hX := extractLsb'_of_extractLsb' p0 6 (len := 2) (k := 0) (n := 1) (by decide)
  rw [h] at hR hX
  exact ⟨congrArg (~~~ ·) hR.symm, congrArg (~~~ ·) hX.symm⟩

/-- The registers and the masking that a header names are those of the mode (30_encoding.md R54, R62, R68). -/
theorem EvexHeader.wf {m : Mode} {bad : Bool} {p0 p1 p2 opcode modrm : Byte} {f : OpEn} {vl : VL} {k : Masking}
    (hm : m.admitted = true) (h : EvexHeader m bad p0 p1 p2 opcode modrm f vl k) :
    (m = .mode32 → p0X p0 = 0 ∧ p0B p0 = 0) ∧ VReg.inMode m (regOperand p0 modrm) = true ∧
      VReg.inMode m (vvvvOperand p1 p2) = true ∧ k.wf = true := by
  obtain ⟨hbound, -, -, -, -, hunused, -, hk⟩ := h
  obtain ⟨-, hbits⟩ := unused_bits_of_eq_none hunused
  have htop (h32 : m = .mode32) : p0R p0 = 0 ∧ p0X p0 = 0 :=
    p0R_p0X_of_top (not_not.1 fun htop => hbound ⟨by rw [h32]; decide, htop⟩)
  refine ⟨fun h32 => ⟨(htop h32).2, (hbits h32).1⟩, VReg.inMode_of_lt hm fun h32 => ?_,
    VReg.inMode_of_lt hm fun h32 => ?_, maskingOf_wf hk⟩
  · obtain ⟨-, hR', -⟩ := hbits h32
    rw [regOperand, hR', (htop h32).1]
    exact vreg_of_low_field_lt _
  · have hlow : ∀ r : BitVec 4, r.extractLsb' 3 1 = 0 → (0#1 ++ r : VReg) < 8 := by decide
    obtain ⟨-, -, hV', hvvvv⟩ := hbits h32
    rw [vvvvOperand, hV']
    exact hlow _ hvvvv

theorem ImmForm.wf_ofImm {m : Mode} {o : ImmForm} (hm : m.admitted = true) (h : o.wf m = true) (e : ElemSize) (vl : VL) :
    (Instr.ofImm e vl o).wf m = true := by
  cases e <;> cases vl <;> exact Bool.and_eq_true_iff.2 ⟨hm, h⟩

theorem VarForm.wf_ofVar {m : Mode} {o : VarForm} (hm : m.admitted = true) (h : o.wf m = true) (e : ElemSize) (vl : VL) :
    (Instr.ofVar e vl o).wf m = true := by
  cases e <;> cases vl <;> exact Bool.and_eq_true_iff.2 ⟨hm, h⟩

/-- What the bytes after 0x62 decode to is well formed, behind admitted prefixes. -/
theorem decodeEvex_wf {m : Mode} {p : Prefixes} {bad : Bool} {bs : List Byte} {i : Instr} (hm : m.admitted = true)
    (hp : p.wf m = true) (h : decodeEvex m p bad bs = .ok i) : i.wf m = true := by
  obtain ⟨p0, p1, p2, opcode, modrm, rest, rfl⟩ := exists_cons_of_decodeEvex h
  obtain ⟨vl, k, rm, rest', hrm, ⟨hheader, rfl⟩ | ⟨imm, rest'', hheader, -, rfl⟩⟩ := decodeEvex_cons_eq_ok.1 h
  · obtain ⟨hext, hreg, hvvvv, hk⟩ := hheader.wf hm
    exact VarForm.wf_ofVar hm (VarForm.wf_iff.2 ⟨hp, hreg, hk, hvvvv, readRM_wf hm hext hrm⟩) _ _
  · obtain ⟨hext, -, hvvvv, hk⟩ := hheader.wf hm
    exact ImmForm.wf_ofImm hm (ImmForm.wf_iff.2 ⟨hp, hvvvv, hk, readRM_wf hm hext hrm⟩) _ _

/-- Bytes that decode to an instruction are legacy prefixes, 0x62 and the rest of the instruction (30_encoding.md R48). -/
theorem decode_eq_ok {m : Mode} {bs : List Byte} {i : Instr} (h : decode m bs = .ok i) :
    ∃ p rest, scanPrefixes m .noPrefix bs = .found p (0x62 :: rest) ∧ decodeEvex m p false rest = .ok i := by
  unfold decode at h
  split at h
  · cases h
  split at h
  · cases h
  · cases h
  next p rest hscan =>
  obtain ⟨rest, rfl, hevex⟩ := decodeAfterPrefixes_eq_ok h
  exact ⟨p, rest, hscan, hevex⟩

/-- Settles O34: the prefixes, the registers, the masking and the operand that are read are those of the mode
(`scanPrefixes_wf`, `EvexHeader.wf`, `readRM_wf`). -/
theorem decodedInstructionsAreWellFormed : Obligations.DecodedInstructionsAreWellFormed := by
  intro m bs i h
  have hm := admitted_of_decode h
  obtain ⟨p, rest, hscan, hevex⟩ := decode_eq_ok h
  exact decodeEvex_wf hm (scanPrefixes_wf hm hscan rfl) hevex

end Sys2Proof

/-! ## The rows of the opcode table -/

namespace Sys2Proof

/-! ### Bytes and their bits -/

/-- A field of one bit. -/
theorem extractLsb'_one_eq_one_iff {w : Nat} (x : BitVec w) (k : Nat) : x.extractLsb' k 1 = 1 ↔ x.getLsbD k = true := by
  have hone : ∀ b : BitVec 1, b = 1 ↔ b.getLsbD 0 = true := by decide
  rw [hone, BitVec.getLsbD_extractLsb', Nat.add_zero]
  rfl

/-- Six bytes under a mask are six other bytes exactly when each byte under its byte of the mask is. -/
theorem six_bytes_and_eq_iff {b0 b1 b2 b3 b4 b5 m0 m1 m2 m3 m4 m5 c0 c1 c2 c3 c4 c5 : Byte} :
    ((b0 ++ b1 ++ b2 ++ b3 ++ b4 ++ b5 &&& m0 ++ m1 ++ m2 ++ m3 ++ m4 ++ m5 : BitVec (8 + 8 + 8 + 8 + 8 + 8)) =
        c0 ++ c1 ++ c2 ++ c3 ++ c4 ++ c5) ↔
      b0 &&& m0 = c0 ∧ b1 &&& m1 = c1 ∧ b2 &&& m2 = c2 ∧ b3 &&& m3 = c3 ∧ b4 &&& m4 = c4 ∧ b5 &&& m5 = c5 := by
  simp only [BitVec.and_append, append_eq_append_iff, and_assoc]

/-- A word of six bytes is its bytes, the most significant first. -/
theorem append_six_bytes (w : BitVec 48) : w.extractLsb' 40 8 ++ w.extractLsb' 32 8 ++ w.extractLsb' 24 8 ++
    w.extractLsb' 16 8 ++ w.extractLsb' 8 8 ++ w.extractLsb' 0 8 = w := by
  rw [BitVec.extractLsb'_append_extractLsb'_eq_extractLsb' (rfl : 40 = 32 + 8),
    BitVec.extractLsb'_append_extractLsb'_eq_extractLsb' (rfl : 32 = 24 + 8),
    BitVec.extractLsb'_append_extractLsb'_eq_extractLsb' (rfl : 24 = 16 + 8),
    BitVec.extractLsb'_append_extractLsb'_eq_extractLsb' (rfl : 16 = 8 + 8),
    BitVec.extractLsb'_append_extractLsb'_eq_extractLsb' (rfl : 8 = 0 + 8), BitVec.extractLsb'_eq_self]

/-! ### What selects a row -/

theorem rowOf_eq_a_iff {mm pp : BitVec 2} {opcode : Byte} {reg : BitVec 3} :
    rowOf mm pp opcode reg = some .a ↔ mm = 1 ∧ pp = 1 ∧ opcode = 0x72 ∧ reg = 1 := by
  unfold rowOf
  split
  next h =>
    obtain ⟨rfl, rfl, rfl⟩ := h
    simp
  · simp

theorem rowOf_eq_b_iff {mm pp : BitVec 2} {opcode : Byte} {reg : BitVec 3} :
    rowOf mm pp opcode reg = some .b ↔ mm = 2 ∧ pp = 1 ∧ opcode = 0x15 := by
  unfold rowOf
  split
  next h => exact iff_of_true rfl h
  next h => exact iff_of_false (by split <;> simp) h

/-- The operand encoding of an instruction (30_encoding.md R55, R56). -/
def Instr.opEn (i : Instr) : OpEn := i.form.elim (fun _ => .a) fun _ => .b

/-- The table row of an operand encoding, an element width and a vector length, byte by byte and field by field: a field is
fixed, or the mask leaves it open (30_encoding.md R49 to R53, R63, R71). -/
def OpEn.tableRow (f : OpEn) (e : ElemSize) (vl : VL) : TableRow :=
  match f with
  | .a =>
    ⟨0x62#8 ++ (1#1 ++ 0#2 ++ 1#1 ++ 0#2 ++ 1#2) ++ (e.wBit ++ 0#4 ++ 1#1 ++ 1#2) ++ (0#1 ++ vl.field ++ 0#5) ++ 0x72#8 ++
        (0#2 ++ 1#3 ++ 0#3),
      BitVec.allOnes 8 ++ (BitVec.allOnes 1 ++ 0#2 ++ BitVec.allOnes 1 ++ BitVec.allOnes 2 ++ BitVec.allOnes 2) ++
        (BitVec.allOnes 1 ++ 0#4 ++ BitVec.allOnes 1 ++ BitVec.allOnes 2) ++ (0#1 ++ BitVec.allOnes 2 ++ 0#5) ++
        BitVec.allOnes 8 ++ (0#2 ++ BitVec.allOnes 3 ++ 0#3)⟩
  | .b =>
    ⟨0x62#8 ++ (0#4 ++ 0#2 ++ 2#2) ++ (e.wBit ++ 0#4 ++ 1#1 ++ 1#2) ++ (0#1 ++ vl.field ++ 0#5) ++ 0x15#8 ++ 0#8,
      BitVec.allOnes 8 ++ (0#4 ++ BitVec.allOnes 2 ++ BitVec.allOnes 2) ++
        (BitVec.allOnes 1 ++ 0#4 ++ BitVec.allOnes 1 ++ BitVec.allOnes 2) ++ (0#1 ++ BitVec.allOnes 2 ++ 0#5) ++
        BitVec.allOnes 8 ++ 0#8⟩

theorem Instr.tableRow_eq (i : Instr) : i.tableRow = i.opEn.tableRow i.elem i.vl := by
  cases i <;> simp only [Instr.tableRow, OpEn.tableRow, Instr.opEn, Instr.form, Instr.elem, Instr.vl, Sum.elim_inl,
    Sum.elim_inr] <;> decide

theorem tableRow_ofImm (e : ElemSize) (vl : VL) (o : ImmForm) : (Instr.ofImm e vl o).tableRow = OpEn.a.tableRow e vl := by
  cases e <;> cases vl <;> exact Instr.tableRow_eq _

theorem tableRow_ofVar (e : ElemSize) (vl : VL) (o : VarForm) : (Instr.ofVar e vl o).tableRow = OpEn.b.tableRow e vl := by
  cases e <;> cases vl <;> exact Instr.tableRow_eq _

/-- A mask of two parts masks the two parts of a word. -/
theorem and_append_eq_iff {a b : Nat} {x : BitVec (a + b)} {m c : BitVec a} {n d : BitVec b} :
    x &&& (m ++ n) = c ++ d ↔ x.extractLsb' b a &&& m = c ∧ x.extractLsb' 0 b &&& n = d := by
  have hx : x.extractLsb' b a ++ x.extractLsb' 0 b = x := by
    rw [BitVec.extractLsb'_append_extractLsb'_eq_extractLsb' (by omega : b = 0 + b), BitVec.extractLsb'_eq_self]
  conv_lhs => rw [← hx, BitVec.and_append, append_eq_append_iff]

/-- A field that the mask leaves open. -/
theorem and_zero_eq_iff {n : Nat} {x : BitVec n} : x &&& 0#n = 0#n ↔ True := iff_true_intro BitVec.and_zero

/-- A field that the mask fixes. -/
theorem and_allOnes_eq_iff {n : Nat} {x c : BitVec n} : x &&& BitVec.allOnes n = c ↔ x = c := by rw [BitVec.and_allOnes]

/-- A one-bit field that is stored inverted. -/
theorem not_eq_zero_iff : ∀ {x : BitVec 1}, ~~~ x = 0#1 ↔ x = 1#1 := by decide

/-- The fields of `P0` that the rows of form A fix: `R` and `R'` stored as 1, the reserved bits, and map 0F. -/
theorem rowBits_p0_a (p0 : BitVec (1 + 2 + 1 + 2 + 2)) :
    p0 &&& (BitVec.allOnes 1 ++ 0#2 ++ BitVec.allOnes 1 ++ BitVec.allOnes 2 ++ BitVec.allOnes 2) =
        1#1 ++ 0#2 ++ 1#1 ++ 0#2 ++ 1#2 ↔
      (((p0R p0 = 0 ∧ True) ∧ p0R' p0 = 0) ∧ p0.extractLsb' 2 2 = 0) ∧ p0mm p0 = 1 := by
  simp only [and_append_eq_iff, and_zero_eq_iff, and_allOnes_eq_iff]
  simp only [p0R, p0R', p0mm, BitVec.ofNat_eq_ofNat, not_eq_zero_iff, extractLsb'_of_extractLsb', Nat.reduceAdd,
    Nat.reduceLeDiff]

/-- The fields of `P0` that the rows of form B fix: the reserved bits and map 0F38. -/
theorem rowBits_p0_b (p0 : BitVec (4 + 2 + 2)) :
    p0 &&& (0#4 ++ BitVec.allOnes 2 ++ BitVec.allOnes 2) = 0#4 ++ 0#2 ++ 2#2 ↔
      (True ∧ p0.extractLsb' 2 2 = 0) ∧ p0mm p0 = 2 := by
  simp only [and_append_eq_iff, and_zero_eq_iff, and_allOnes_eq_iff]
  simp only [p0mm, extractLsb'_of_extractLsb', Nat.reduceAdd, Nat.reduceLeDiff, BitVec.ofNat_eq_ofNat]

/-- The fields of `P1` that a row fixes: `W`, the reserved bit and `pp`. -/
theorem rowBits_p1 (e : ElemSize) (p1 : BitVec (1 + 4 + 1 + 2)) :
    p1 &&& (BitVec.allOnes 1 ++ 0#4 ++ BitVec.allOnes 1 ++ BitVec.allOnes 2) = e.wBit ++ 0#4 ++ 1#1 ++ 1#2 ↔
      ((p1W p1 = e.wBit ∧ True) ∧ p1.extractLsb' 2 1 = 1) ∧ p1pp p1 = 1 := by
  simp only [and_append_eq_iff, and_zero_eq_iff, and_allOnes_eq_iff]
  simp only [p1W, p1pp, extractLsb'_of_extractLsb', Nat.reduceAdd, Nat.reduceLeDiff, BitVec.ofNat_eq_ofNat]

/-- The field of `P2` that a row fixes: `L'L`. -/
theorem rowBits_p2 (vl : VL) (p2 : BitVec (1 + 2 + 5)) :
    p2 &&& (0#1 ++ BitVec.allOnes 2 ++ 0#5) = 0#1 ++ vl.field ++ 0#5 ↔ (True ∧ p2LL p2 = vl.field) ∧ True := by
  simp only [and_append_eq_iff, and_zero_eq_iff, and_allOnes_eq_iff]
  simp only [p2LL, extractLsb'_of_extractLsb', Nat.reduceAdd, Nat.reduceLeDiff]

/-- The field of ModRM that a row of form A fixes: `ModRM.reg`. -/
theorem rowBits_modrm (modrm : BitVec (2 + 3 + 3)) :
    modrm &&& (0#2 ++ BitVec.allOnes 3 ++ 0#3) = 0#2 ++ 1#3 ++ 0#3 ↔ (True ∧ fieldReg modrm = 1) ∧ True := by
  simp only [and_append_eq_iff, and_zero_eq_iff, and_allOnes_eq_iff]
  simp only [fieldReg, extractLsb'_of_extractLsb', Nat.reduceAdd, Nat.reduceLeDiff, BitVec.ofNat_eq_ofNat]

/-- Six bytes select a row exactly when the fields after 0x62 select its operand encoding, form A has `R` and `R'` stored as
1, and `W` and `L'L` are the row's (30_encoding.md R63, R71). -/
theorem selects_iff {f : OpEn} {e : ElemSize} {vl : VL} {b0 p0 p1 p2 opcode modrm : Byte} :
    (f.tableRow e vl).selects (b0 ++ p0 ++ p1 ++ p2 ++ opcode ++ modrm) = true ↔
      b0 = 0x62 ∧ SelectsRow .mode64 p0 p1 opcode modrm f ∧ (f = .a → p0R p0 = 0 ∧ p0R' p0 = 0) ∧
        p1W p1 = e.wBit ∧ p2LL p2 = vl.field := by
  cases f with
  | a =>
    refine beq_iff_eq.trans (six_bytes_and_eq_iff.trans ((and_congr and_allOnes_eq_iff (and_congr (rowBits_p0_a p0)
      (and_congr (rowBits_p1 e p1) (and_congr (rowBits_p2 vl p2)
        (and_congr and_allOnes_eq_iff (rowBits_modrm modrm)))))).trans ?_))
    simp only [SelectsRow, rowOf_eq_a_iff]
    constructor
    · rintro ⟨h62, ⟨⟨⟨⟨hR, -⟩, hR'⟩, h0⟩, hmm⟩, ⟨⟨⟨hW, -⟩, h1⟩, hpp⟩, ⟨⟨-, hLL⟩, -⟩, hop, ⟨-, hreg⟩, -⟩
      exact ⟨h62, ⟨fun h => absurd rfl h, h0, h1, hmm, hpp, hop, hreg⟩, fun _ => ⟨hR, hR'⟩, hW, hLL⟩
    · rintro ⟨h62, ⟨-, h0, h1, hmm, hpp, hop, hreg⟩, hbits, hW, hLL⟩
      obtain ⟨hR, hR'⟩ := hbits trivial
      exact ⟨h62, ⟨⟨⟨⟨hR, trivial⟩, hR'⟩, h0⟩, hmm⟩, ⟨⟨⟨hW, trivial⟩, h1⟩, hpp⟩, ⟨⟨trivial, hLL⟩, trivial⟩, hop,
        ⟨trivial, hreg⟩, trivial⟩
  | b =>
    refine beq_iff_eq.trans (six_bytes_and_eq_iff.trans ((and_congr and_allOnes_eq_iff (and_congr (rowBits_p0_b p0)
      (and_congr (rowBits_p1 e p1) (and_congr (rowBits_p2 vl p2)
        (and_congr and_allOnes_eq_iff and_zero_eq_iff))))).trans ?_))
    simp only [SelectsRow, rowOf_eq_b_iff]
    constructor
    · rintro ⟨h62, ⟨⟨-, h0⟩, hmm⟩, ⟨⟨⟨hW, -⟩, h1⟩, hpp⟩, ⟨⟨-, hLL⟩, -⟩, hop, -⟩
      exact ⟨h62, ⟨fun h => absurd rfl h, h0, h1, hmm, hpp, hop⟩, nofun, hW, hLL⟩
    · rintro ⟨h62, ⟨-, h0, h1, hmm, hpp, hop⟩, -, hW, hLL⟩
      exact ⟨h62, ⟨⟨trivial, h0⟩, hmm⟩, ⟨⟨⟨hW, trivial⟩, h1⟩, hpp⟩, ⟨⟨trivial, hLL⟩, trivial⟩, hop, trivial⟩

/-! ### The row of an encoding -/

/-- The bytes of a header, behind 0x62, select the row of its operand encoding, `W` and `L'L`. -/
theorem EvexHeader.selects {m : Mode} {p0 p1 p2 opcode modrm : Byte} {f : OpEn} {e : ElemSize} {vl : VL} {k : Masking}
    (h : EvexHeader m false p0 p1 p2 opcode modrm f vl k) (hW : p1W p1 = e.wBit) (hLL : p2LL p2 = vl.field) :
    (f.tableRow e vl).selects (0x62#8 ++ p0 ++ p1 ++ p2 ++ opcode ++ modrm) = true := by
  obtain ⟨-, hfixed, hrow, -, -, hunused, -⟩ := h
  obtain ⟨h0, h1⟩ := not_or.1 hfixed
  exact selects_iff.2
    ⟨rfl, ⟨fun h => absurd rfl h, not_not.1 h0, not_not.1 h1, hrow⟩, (unused_bits_of_eq_none hunused).1, hW, hLL⟩

/-- An encoding is its legacy bytes, 0x62, five bytes that select its row, and a tail (30_encoding.md R48, R63). -/
theorem encode_selects {m : Mode} {i : Instr} (h : i.wf m = true) :
    ∃ (p0 p1 p2 opcode modrm : Byte) (tail : List Byte),
      encode i = i.operands.prefixes.bytes ++ 0x62 :: p0 :: p1 :: p2 :: opcode :: modrm :: tail ∧
      (i.opEn.tableRow i.elem i.vl).selects (0x62#8 ++ p0 ++ p1 ++ p2 ++ opcode ++ modrm) = true := by
  rw [Instr.wf_eq, Bool.and_eq_true] at h
  obtain ⟨hm, hform⟩ := h
  rw [encode_eq, Instr.operands_eq, Instr.opEn]
  cases hi : i.form with
  | inl o =>
    rw [hi] at hform
    have hheader := evexHeader_imm hm hform i.elem i.vl
    obtain ⟨hW, -⟩ := fields_mkP1 i.elem.wBit (o.dest.extractLsb' 0 4)
    obtain ⟨-, hLL, -⟩ :=
      fields_mkP2 o.mask.zBit i.vl.field o.src.code.bc (o.dest.extractLsb' 4 1) o.mask.aaa
    exact ⟨_, _, _, _, _, _, rfl, hheader.selects hW hLL⟩
  | inr o =>
    rw [hi] at hform
    have hheader := evexHeader_var hm hform i.elem i.vl
    obtain ⟨hW, -⟩ := fields_mkP1 i.elem.wBit (o.src.extractLsb' 0 4)
    obtain ⟨-, hLL, -⟩ :=
      fields_mkP2 o.mask.zBit i.vl.field o.count.code.bc (o.src.extractLsb' 4 1) o.mask.aaa
    exact ⟨_, _, _, _, _, _, rfl, hheader.selects hW hLL⟩

/-- Six bytes select one row at most (30_encoding.md R63). -/
theorem tableRow_eq_of_selects {i i' : Instr} {b0 p0 p1 p2 opcode modrm : Byte}
    (h : i.tableRow.selects (b0 ++ p0 ++ p1 ++ p2 ++ opcode ++ modrm) = true)
    (h' : i'.tableRow.selects (b0 ++ p0 ++ p1 ++ p2 ++ opcode ++ modrm) = true) : i'.tableRow = i.tableRow := by
  rw [Instr.tableRow_eq, selects_iff] at h h'
  obtain ⟨-, hrow, -, hW, hLL⟩ := h
  obtain ⟨-, hrow', -, hW', hLL'⟩ := h'
  have hf : i'.opEn = i.opEn := Option.some.inj (hrow'.rowOf.symm.trans hrow.rowOf)
  have he : i'.elem = i.elem := by rw [← elemOf_wBit i'.elem, ← hW', hW, elemOf_wBit]
  have hvl : i'.vl = i.vl := Option.some.inj (by rw [← vlOf_field, ← hLL', hLL, vlOf_field])
  rw [Instr.tableRow_eq, Instr.tableRow_eq, hf, he, hvl]

/-- Settles O38: the six bytes after the prefixes select the row (`encode_selects`), and no six bytes select two
(`tableRow_eq_of_selects`). -/
theorem encodingsSelectTheirTableRow : Obligations.EncodingsSelectTheirTableRow := by
  intro m i h
  obtain ⟨p0, p1, p2, opcode, modrm, tail, hbytes, hselects⟩ := encode_selects h
  rw [← Instr.tableRow_eq] at hselects
  refine ⟨0x62, p0, p1, p2, opcode, modrm, tail, hbytes, hselects, fun i' hrow => ?_⟩
  exact Bool.eq_false_iff.2 fun hselects' => hrow (tableRow_eq_of_selects hselects hselects')

end Sys2Proof

/-! ## Bytes that select a row -/

namespace Sys2Proof

/-! ### Enough bytes after ModRM -/

theorem exists_readDisp32 {bs : List Byte} (h : 4 ≤ bs.length) : ∃ p, readDisp32 bs = some p := by
  match bs, h with
  | _ :: _ :: _ :: _ :: _, _ => exact ⟨_, rfl⟩

theorem exists_readDisp (mod : BitVec 2) (wide : Bool) {bs : List Byte} (h : 4 ≤ bs.length) :
    ∃ p, readDisp mod wide bs = some p := by
  obtain ⟨p, hp⟩ := exists_readDisp32 h
  unfold readDisp
  rw [hp]
  split
  · split <;> exact ⟨_, rfl⟩
  · split
    · cases bs with
      | nil => cases h
      | cons b bs => exact ⟨_, rfl⟩
    · exact ⟨_, rfl⟩

/-- A SIB byte and four displacement bytes are enough for an address form (30_encoding.md R53). -/
theorem exists_readAddr (x b : BitVec 1) (mod : BitVec 2) (rm : BitVec 3) {bs : List Byte} (h : 5 ≤ bs.length) :
    ∃ p, readAddr x b mod rm bs = some p := by
  by_cases hsib : rm = 4
  · subst hsib
    cases bs with
    | nil => cases h
    | cons sib bs =>
      obtain ⟨p, hp⟩ := exists_readDisp mod (mod == 0 && fieldRm sib == 5) (bs := bs) (Nat.le_of_succ_le_succ h)
      rw [readAddr_sib, hp]
      exact ⟨_, rfl⟩
  · by_cases hdisp : mod = 0 ∧ rm = 5
    · obtain ⟨p, hp⟩ := exists_readDisp32 (Nat.le_of_succ_le h)
      obtain ⟨rfl, rfl⟩ := hdisp
      rw [readAddr_disp32, hp]
      exact ⟨_, rfl⟩
    · obtain ⟨p, hp⟩ := exists_readDisp mod false (Nat.le_of_succ_le h)
      rw [readAddr_base hsib hdisp, hp]
      exact ⟨_, rfl⟩

/-- Six bytes after ModRM are enough for the operand and a byte after it (30_encoding.md R53, R65). -/
theorem exists_readRM (x b bc : BitVec 1) (modrm : Byte) {bs : List Byte} (h : 6 ≤ bs.length) :
    ∃ rm next rest, readRM x b bc modrm bs = some (rm, next :: rest) := by
  obtain ⟨⟨rm, rest⟩, hread⟩ : ∃ p, readRM x b bc modrm bs = some p := by
    by_cases hmod : fieldMod modrm = 3
    · exact ⟨_, readRM_of_mod_eq hmod x b bc bs⟩
    · obtain ⟨p, hp⟩ := exists_readAddr x b (fieldMod modrm) (fieldRm modrm) (Nat.le_of_succ_le h)
      rw [readRM_of_mod_ne hmod, hp]
      exact ⟨_, rfl⟩
  obtain ⟨pre, rfl, hlen, -⟩ := readRM_readsPrefix x b bc modrm hread
  cases rest with
  | nil =>
    have htail := rm.tailSize_le
    rw [List.append_nil] at h
    omega
  | cons next rest => exact ⟨rm, next, rest, hread⟩

/-! ### Steps 7 to 10 of R70 -/

theorem vlOf_eq_none_iff : ∀ {ll : BitVec 2}, vlOf ll = none ↔ ll = 3 := by decide

theorem maskingOf_eq_none_iff : ∀ {z : BitVec 1} {aaa : BitVec 3}, maskingOf z aaa = none ↔ z = 1 ∧ aaa = 0 := by decide

/-- Steps 7 and 8 of R70 come before step 10. -/
theorem judge_eq_invalidOpcode {bad bRegister : Bool} {ll : BitVec 2} {z : BitVec 1} {aaa : BitVec 3}
    (h : bad = true ∨ bRegister = true ∨ vlOf ll = none ∨ maskingOf z aaa = none) (unused : Option DecodeRefusal)
    (i : VL → Masking → Instr) : judge bad bRegister ll z aaa unused i = .invalidOpcode := by
  unfold judge
  split
  next hvl hk =>
    have hbad : (bad || bRegister) = true := by
      obtain hbad | hreg | hnone | hnone := h
      · rw [hbad, Bool.true_or]
      · rw [hreg, Bool.or_true]
      · rw [hvl] at hnone
        cases hnone
      · rw [hk] at hnone
        cases hnone
    rw [if_pos hbad]
  · rfl

/-- Step 10 of R70, for a row that steps 7 and 8 let pass. -/
theorem judge_eq_unusedBits {ll : BitVec 2} {z : BitVec 1} {aaa : BitVec 3} {vl : VL} {k : Masking}
    (hvl : vlOf ll = some vl) (hk : maskingOf z aaa = some k) (why : DecodeRefusal) (i : VL → Masking → Instr) :
    judge false false ll z aaa (some why) i = .unusedBits vl why := by
  simp only [judge, hvl, hk, Bool.or_self, Bool.false_eq_true, if_false]

/-- The prefixes of an instruction of either form. -/
theorem prefixes_ofImm (e : ElemSize) (vl : VL) (o : ImmForm) :
    (Instr.ofImm e vl o).operands.prefixes = o.prefixes := by cases e <;> cases vl <;> rfl

theorem prefixes_ofVar (e : ElemSize) (vl : VL) (o : VarForm) :
    (Instr.ofVar e vl o).operands.prefixes = o.prefixes := by cases e <;> cases vl <;> rfl

/-- Bytes after 0x62 that select a row, six or more after ModRM, are judged by steps 7 to 10 of R70; the instruction judged
is one of that row, with the prefixes that stood before. -/
theorem decodeEvex_of_selectsRow {m : Mode} {p0 p1 opcode modrm : Byte} {f : OpEn} (h : SelectsRow m p0 p1 opcode modrm f)
    {rest : List Byte} (hrest : 6 ≤ rest.length) (p : Prefixes) (bad : Bool) (p2 : Byte) :
    ∃ i : VL → Masking → Instr,
      decodeEvex m p bad (p0 :: p1 :: p2 :: opcode :: modrm :: rest) =
        judge (bad || !m.admitted) (p2b p2 == 1 && fieldMod modrm == 3) (p2LL p2) (p2z p2) (p2aaa p2)
          (unusedBits m f p0 p1 p2) i ∧
      ∀ vl k, (i vl k).tableRow = f.tableRow (elemOf (p1W p1)) vl ∧ (i vl k).operands.prefixes = p := by
  obtain ⟨rm, next, rest', hrm⟩ := exists_readRM (p0X p0) (p0B p0) (p2b p2) modrm hrest
  cases f with
  | a =>
    refine ⟨fun vl k => .ofImm (elemOf (p1W p1)) vl ⟨p, vvvvOperand p1 p2, k, rm, next⟩, ?_, fun vl k =>
      ⟨tableRow_ofImm _ _ _, prefixes_ofImm _ _ _⟩⟩
    simp only [decodeEvex, if_neg h.not_bound, if_neg h.fixedBits, h.rowOf, hrm]
  | b =>
    refine ⟨fun vl k => .ofVar (elemOf (p1W p1)) vl ⟨p, regOperand p0 modrm, k, vvvvOperand p1 p2, rm⟩, ?_, fun vl k =>
      ⟨tableRow_ofVar _ _ _, prefixes_ofVar _ _ _⟩⟩
    simp only [decodeEvex, if_neg h.not_bound, if_neg h.fixedBits, h.rowOf, hrm]

/-! ### The bytes of a table row -/

/-- Six bytes that select a row, behind admitted prefixes and with six or more bytes after them: no extension bit of `Mode64`
is unused in them, so that steps 7 and 8 of R70 decide. -/
theorem decode_of_selects {i : Instr} (p : Prefixes) {b0 p0 p1 p2 opcode modrm : Byte} {tail : List Byte}
    (htail : 6 ≤ tail.length) (h : i.tableRow.selects (b0 ++ p0 ++ p1 ++ p2 ++ opcode ++ modrm) = true) :
    if (p2z p2 = 1 ∧ p2aaa p2 = 0) ∨ (p2b p2 = 1 ∧ fieldMod modrm = 3) then
      decode .mode64 (p.bytes ++ b0 :: p0 :: p1 :: p2 :: opcode :: modrm :: tail) = .invalidOpcode
    else ∃ i', decode .mode64 (p.bytes ++ b0 :: p0 :: p1 :: p2 :: opcode :: modrm :: tail) = .ok i' ∧
      i'.tableRow = i.tableRow ∧ i'.operands.prefixes = p := by
  rw [Instr.tableRow_eq, selects_iff] at h
  obtain ⟨rfl, hrow, hformA, hW, hLL⟩ := h
  have hp : p.wf .mode64 = true := by cases p <;> rfl
  have hbRegister : (p2b p2 == 1 && fieldMod modrm == 3) = true ↔ p2b p2 = 1 ∧ fieldMod modrm = 3 := by
    rw [Bool.and_eq_true, beq_iff_eq, beq_iff_eq]
  obtain ⟨i', hdecode, hi'⟩ := decodeEvex_of_selectsRow hrow htail p false p2
  rw [decode_prefixes rfl hp, hdecode]
  split
  next hud =>
    obtain hk | hreg := hud
    · exact judge_eq_invalidOpcode (.inr (.inr (.inr (maskingOf_eq_none_iff.2 hk)))) _ _
    · exact judge_eq_invalidOpcode (.inr (.inl (hbRegister.2 hreg))) _ _
  next hok =>
    obtain ⟨hk, hreg⟩ := not_or.1 hok
    obtain ⟨k, hk⟩ := Option.ne_none_iff_exists'.1 (mt maskingOf_eq_none_iff.1 hk)
    obtain ⟨hrow', hprefixes⟩ := hi' i.vl k
    have hvl : vlOf (p2LL p2) = some i.vl := by rw [hLL, vlOf_field]
    refine ⟨i' i.vl k, judge_eq_ok.2 ⟨rfl, Bool.eq_false_iff.2 (mt hbRegister.1 hreg),
      unusedBits_eq_none hformA nofun, i.vl, k, hvl, hk, rfl⟩, ?_, hprefixes⟩
    rw [hrow', hW, elemOf_wBit, Instr.tableRow_eq]

/-- Settles O39: the word taken apart into its bytes (`decode_of_selects`). -/
theorem tableRowsDecodeToTheirInstruction : Obligations.TableRowsDecodeToTheirInstruction := by
  intro i p w tail htail hselects bs
  rw [← append_six_bytes w] at hselects
  have hz : p2z (w.extractLsb' 16 8) = 1 ↔ w.getLsbD 23 = true := by
    rw [p2z, extractLsb'_of_extractLsb' w 16 (by decide), extractLsb'_one_eq_one_iff]
  have haaa : p2aaa (w.extractLsb' 16 8) = w.extractLsb' 16 3 := extractLsb'_of_extractLsb' w 16 (by decide)
  have hb : p2b (w.extractLsb' 16 8) = 1 ↔ w.getLsbD 20 = true := by
    rw [p2b, extractLsb'_of_extractLsb' w 16 (by decide), extractLsb'_one_eq_one_iff]
  have hmod : fieldMod (w.extractLsb' 0 8) = w.extractLsb' 6 2 := extractLsb'_of_extractLsb' w 0 (by decide)
  have hdecode := decode_of_selects p htail hselects
  simp only [hz, haaa, hb, hmod] at hdecode
  have hbs : bs = p.bytes ++ _ := List.append_assoc _ _ _
  rw [hbs]
  exact hdecode

end Sys2Proof

/-! ## Bytes that are no instruction -/

namespace Sys2Proof

/-! ### Legacy prefixes and forbidden bytes -/

theorem Mode.ne_code16_of_admitted {m : Mode} (h : m.admitted = true) : m ≠ .code16 := by
  rintro rfl
  cases h

/-- Admitted legacy bytes are read whole, whatever follows them (30_encoding.md R66). -/
theorem scanPrefixes_append {m : Mode} {p : Prefixes} (hp : p.wf m = true) (rest : List Byte) :
    scanPrefixes m .noPrefix (p.bytes ++ rest) = scanPrefixes m p rest := by
  have h67 : segOverride 0x67 = none := rfl
  cases p <;> simp_all [Prefixes.wf, Prefixes.bytes, scanPrefixes, Prefixes.addSeg, Prefixes.addAddr]

/-- A legacy byte that is refused ends decoding (30_encoding.md R70 step 1). -/
theorem decode_of_scan_refused {m : Mode} {p : Prefixes} (hm : m ≠ .code16) (hp : p.wf m = true) {rest : List Byte}
    {why : DecodeRefusal} (h : scanPrefixes m p rest = .refused why) : decode m (p.bytes ++ rest) = .refused why := by
  rw [decode, if_neg hm, scanPrefixes_append hp, h]

/-- One forbidden byte between the admitted prefixes and 0x62 is remembered (30_encoding.md R70 step 1). -/
theorem decode_forbidden {m : Mode} {p : Prefixes} (hm : m ≠ .code16) (hp : p.wf m = true) {x : Byte}
    (hx : forbiddenPrefix m x = true) (rest : List Byte) :
    decode m (p.bytes ++ x :: 0x62 :: rest) = decodeEvex m p true rest := by
  have h := decode_prefixes_forbidden hm hp (f := some x) (fun _ h => Option.some.inj h ▸ hx) rest
  rwa [List.append_assoc] at h

/-- The forbidden bytes: LOCK, 0x66, 0xF2, 0xF3, and in `Mode64` REX (30_encoding.md R66, R67 U-g). -/
theorem forbiddenPrefix_of_eq {m : Mode} {b : Byte}
    (h : b = 0xF0 ∨ b = 0x66 ∨ b = 0xF2 ∨ b = 0xF3 ∨ (m = .mode64 ∧ 0x40 ≤ b ∧ b ≤ 0x4F)) :
    forbiddenPrefix m b = true := by
  obtain rfl | rfl | rfl | rfl | ⟨rfl, hlow, hhigh⟩ := h
  · rfl
  · rfl
  · rfl
  · rfl
  · have hrex : b.extractLsb' 4 4 = 4 := by
      apply BitVec.eq_of_toNat_eq
      rw [BitVec.extractLsb'_toNat, Nat.shiftRight_eq_div_pow]
      have hlow : 0x40 ≤ b.toNat := hlow
      have hhigh : b.toNat ≤ 0x4F := hhigh
      change b.toNat / 16 % 16 = 4
      omega
    exact Bool.or_eq_true_iff.2 (.inr (beq_iff_eq.2 hrex))

/-- Behind the prefixes, bytes that begin neither with 0x62 nor with a forbidden byte are not an encoding (30_encoding.md
R70 step 2). -/
theorem decodeAfterPrefixes_of_ne {m : Mode} {b : Byte} (hforbidden : forbiddenPrefix m b = false) (hb : b ≠ 0x62)
    (p : Prefixes) (rest : List Byte) : decodeAfterPrefixes m p (b :: rest) = .refused .outOfScope := by
  simp only [decodeAfterPrefixes, skipForbidden, hforbidden, Bool.false_eq_true, if_false, if_neg hb]

/-- Nor is a forbidden byte before a byte other than 0x62 (30_encoding.md R70 step 2). -/
theorem decodeAfterPrefixes_forbidden_of_ne {m : Mode} {x b : Byte} (hx : forbiddenPrefix m x = true) (hb : b ≠ 0x62)
    (p : Prefixes) (rest : List Byte) : decodeAfterPrefixes m p (x :: b :: rest) = .refused .outOfScope := by
  simp only [decodeAfterPrefixes, skipForbidden, hx, if_true, if_neg hb]

/-! ### Steps 3 to 6 of R70 -/

section

variable {m : Mode} {p0 p1 opcode modrm : Byte}

/-- Step 3: outside `Mode64`, 0x62 is the BOUND instruction unless `P0[7:6] = 11` (30_encoding.md R68). -/
theorem decodeEvex_of_bound (hm : m ≠ .mode64) (htop : p0.extractLsb' 6 2 ≠ 3) (p : Prefixes) (bad : Bool) (p2 : Byte)
    (rest : List Byte) :
    decodeEvex m p bad (p0 :: p1 :: p2 :: opcode :: modrm :: rest) = .refused .boundInstruction := by
  rw [decodeEvex, if_pos ⟨hm, htop⟩]

/-- Steps 4 and 5: the reserved bits (30_encoding.md R67 U-a, U-b). -/
theorem decodeEvex_of_reservedBits (htop : m ≠ .mode64 → p0.extractLsb' 6 2 = 3)
    (hreserved : p0.extractLsb' 2 2 ≠ 0 ∨ p1.extractLsb' 2 1 ≠ 1) (p : Prefixes) (bad : Bool) (p2 : Byte)
    (rest : List Byte) : decodeEvex m p bad (p0 :: p1 :: p2 :: opcode :: modrm :: rest) = .refused .reservedBits := by
  rw [decodeEvex, if_neg fun h => h.2 (htop h.1), if_pos hreserved]

/-- Step 6: fields that select no row (30_encoding.md R69). -/
theorem decodeEvex_of_rowOf_eq_none (htop : m ≠ .mode64 → p0.extractLsb' 6 2 = 3) (h0 : p0.extractLsb' 2 2 = 0)
    (h1 : p1.extractLsb' 2 1 = 1) (hrow : rowOf (p0mm p0) (p1pp p1) opcode (fieldReg modrm) = none) (p : Prefixes)
    (bad : Bool) (p2 : Byte) (rest : List Byte) :
    decodeEvex m p bad (p0 :: p1 :: p2 :: opcode :: modrm :: rest) = .refused .outOfScope := by
  rw [decodeEvex, if_neg fun h => h.2 (htop h.1), if_neg fun h => h.elim (· h0) (· h1), hrow]

end

/-! ### Step 10 of R70 -/

/-- A bit that is stored inverted is 0 exactly when it is stored as 1. -/
theorem stored_eq_zero_iff {w : Nat} (x : BitVec w) (k : Nat) : ~~~ x.extractLsb' k 1 = 0 ↔ x.getLsbD k = true :=
  not_eq_zero_iff.trans (extractLsb'_one_eq_one_iff x k)

/-- The top bit of `vvvv` is stored inverted in `P1[6]` (30_encoding.md R50). -/
theorem top_vvvv_eq_zero_iff (p1 : Byte) : (p1vvvv p1).extractLsb' 3 1 = 0 ↔ p1.getLsbD 6 = true := by
  have htop : ∀ v : BitVec 4, (~~~ v).extractLsb' 3 1 = ~~~ v.extractLsb' 3 1 := by decide
  rw [p1vvvv, htop, stored_eq_zero_iff, BitVec.getLsbD_extractLsb']
  rfl

/-- Form A with `R` or `R'` stored as 0 (30_encoding.md R55; D14). -/
theorem unusedBits_eq_formA {p0 : Byte} (h : p0.getLsbD 7 = false ∨ p0.getLsbD 4 = false) (m : Mode) (p1 p2 : Byte) :
    unusedBits m .a p0 p1 p2 = some .unusedBitsFormA := by
  refine if_pos ⟨rfl, ?_⟩
  rw [p0R, p0R', stored_eq_zero_iff, stored_eq_zero_iff]
  rintro ⟨h7, h4⟩
  simp only [h7, h4, Bool.true_eq_false, or_self] at h

/-- In `Mode32`, `B`, `R'`, `V'` or the top bit of `vvvv` stored as 0 (30_encoding.md R68; D21). -/
theorem unusedBits_eq_mode32 {f : OpEn} {p0 p1 p2 : Byte}
    (ha : ¬ (f = .a ∧ (p0.getLsbD 7 = false ∨ p0.getLsbD 4 = false)))
    (h : p0.getLsbD 5 = false ∨ p0.getLsbD 4 = false ∨ p2.getLsbD 3 = false ∨ p1.getLsbD 6 = false) :
    unusedBits .mode32 f p0 p1 p2 = some .unusedBitsMode32 := by
  refine (if_neg ?_).trans (if_pos ⟨rfl, ?_⟩)
  · rw [p0R, p0R', stored_eq_zero_iff, stored_eq_zero_iff]
    simpa using ha
  · rw [p0B, p0R', p2V', top_vvvv_eq_zero_iff, stored_eq_zero_iff, stored_eq_zero_iff, stored_eq_zero_iff]
    rintro ⟨h5, h4, h3, h6⟩
    simp only [h5, h4, h3, h6, Bool.true_eq_false, or_self] at h

end Sys2Proof

namespace Sys2Proof.Machine

open Sys2Proof Host

/-! ### The step on such bytes -/

theorem step_of_invalidOpcode {s : State} (h : decode s.mode s.fetchBytes = .invalidOpcode) :
    step s = .fault .invalidOpcode := by
  simp only [step, h]
  rfl

theorem step_of_refused {s : State} {why : DecodeRefusal} (h : decode s.mode s.fetchBytes = .refused why) :
    step s = .refused (.undecodable why) := by
  simp only [step, h]
  rfl

/-- Step 9 of R70 comes before step 10: in an admitted mode #UD where the vector state or the features are not enabled. -/
theorem step_of_unusedBits {s : State} {vl : VL} {why : DecodeRefusal} (hm : s.mode.admitted = true)
    (h : decode s.mode s.fetchBytes = .unusedBits vl why) :
    step s = if s.osEnabled && s.hasFeatures vl then .refused (.undecodable why) else .fault .invalidOpcode := by
  have hmode : (s.mode == .real || s.mode == .virtual8086) = false := by
    obtain hmode | hmode := Mode.admitted_iff.1 hm <;> rw [hmode] <;> rfl
  simp only [step, h, stopUnusedBits, State.undefinedOpcode, hmode, Bool.false_or]
  cases s.osEnabled <;> cases s.hasFeatures vl <;> rfl

/-- Behind one segment override no other is admitted (30_encoding.md R66; D28). -/
theorem addSeg_eq_none {p : Prefixes} (h : segmentOverride p ≠ none) (g : Seg) : p.addSeg g = none := by
  cases p with
  | noPrefix => exact absurd rfl h
  | addr => exact absurd rfl h
  | seg g' => rfl
  | segAddr g' => rfl
  | addrSeg g' => rfl

/-- Behind one 0x67 no other is admitted (30_encoding.md R66; D28). -/
theorem addAddr_eq_none {p : Prefixes} (h : hasAddressOverride p = true) : p.addAddr = none := by
  cases p with
  | noPrefix => cases h
  | seg g => cases h
  | addr => rfl
  | segAddr g => rfl
  | addrSeg g => rfl

/-- 0x67 is admitted in `Mode64` only (30_encoding.md R66). -/
theorem mode64_of_hasAddressOverride {m : Mode} {p : Prefixes} (hp : p.wf m = true) (h : hasAddressOverride p = true) :
    m = .mode64 := by
  cases p with
  | noPrefix => cases h
  | seg g => cases h
  | addr => exact beq_iff_eq.1 hp
  | segAddr g => exact beq_iff_eq.1 hp
  | addrSeg g => exact beq_iff_eq.1 hp

/-- Of the modes that have the encodings, `Mode32` alone asks for `P0[7:6] = 11` (30_encoding.md R68). -/
theorem top_of_mode32 {m : Mode} (hm : m.admitted = true) {p0 : Byte} (h : m = .mode32 → p0.extractLsb' 6 2 = 3) :
    m ≠ .mode64 → p0.extractLsb' 6 2 = 3 := fun h64 => h ((Mode.admitted_iff.1 hm).resolve_left h64)

/-- Settles O43: bytes that select a row are judged by steps 7 and 8 of R70 first (`decodeEvex_of_selectsRow`,
`judge_eq_invalidOpcode`). -/
theorem illegalEncodingsAreInvalidOpcode : Obligations.IllegalEncodingsAreInvalidOpcode := by
  intro s p p0 p1 p2 opcode modrm tail hm hp htop h0 h1 hrow htail
  obtain ⟨f, hrow⟩ := Option.ne_none_iff_exists'.1 hrow
  have hselects : SelectsRow s.mode p0 p1 opcode modrm f := ⟨top_of_mode32 hm htop, h0, h1, hrow⟩
  refine ⟨fun hillegal hbytes => step_of_invalidOpcode ?_, fun x hx hbytes => step_of_invalidOpcode ?_⟩
  · obtain ⟨i, hdecode, -⟩ := decodeEvex_of_selectsRow hselects htail p false p2
    rw [hbytes, decode_prefixes hm hp, hdecode]
    refine judge_eq_invalidOpcode ?_ _ _
    obtain hll | hk | ⟨hb, hmod⟩ := hillegal
    · exact .inr (.inr (.inl (vlOf_eq_none_iff.2 hll)))
    · exact .inr (.inr (.inr (maskingOf_eq_none_iff.2 hk)))
    · rw [hb, hmod]
      exact .inr (.inl rfl)
  · obtain ⟨i, hdecode, -⟩ := decodeEvex_of_selectsRow hselects htail p true p2
    rw [hbytes, decode_forbidden (Mode.ne_code16_of_admitted hm) hp (forbiddenPrefix_of_eq hx), hdecode]
    exact judge_eq_invalidOpcode (.inl rfl) _ _

/-- Settles O44: the decoder refuses such bytes at step 2, 3, 4, 5 or 6 of R70. -/
theorem otherBytesAreRefused : Obligations.OtherBytesAreRefused := by
  intro s p hm hp
  have hcode16 := Mode.ne_code16_of_admitted hm
  refine ⟨fun b tail hseg h67 hforbidden hb hbytes => step_of_refused ?_,
    fun x b tail hx hb hbytes => step_of_refused ?_, fun f p0 p1 p2 opcode modrm tail hf hbytes => ?_⟩
  · rw [hbytes, decode_of_found hcode16 (scanPrefixes_bytes hp hseg h67 tail)]
    exact decodeAfterPrefixes_of_ne hforbidden hb p tail
  · obtain ⟨hseg, h67⟩ := segOverride_of_forbiddenPrefix hx
    rw [hbytes, decode_of_found hcode16 (scanPrefixes_bytes hp hseg h67 (b :: tail))]
    exact decodeAfterPrefixes_forbidden_of_ne hx hb p tail
  · have hdecode := decode_prefixes_forbidden hcode16 hp hf (p0 :: p1 :: p2 :: opcode :: modrm :: tail)
    rw [← hbytes] at hdecode
    refine ⟨fun h32 htop => step_of_refused (hdecode.trans ?_), fun htop => ⟨fun hreserved => ?_, fun h0 h1 hrow => ?_⟩⟩
    · exact decodeEvex_of_bound (by rw [h32]; nofun) htop p _ p2 tail
    · exact step_of_refused (hdecode.trans (decodeEvex_of_reservedBits (top_of_mode32 hm htop) hreserved p _ p2 tail))
    · exact step_of_refused
        (hdecode.trans (decodeEvex_of_rowOf_eq_none (top_of_mode32 hm htop) h0 h1 hrow p _ p2 tail))

/-- Settles O45: the scan of the legacy bytes refuses (`decode_of_scan_refused`). -/
theorem prefixArrangementsAreRefused : Obligations.PrefixArrangementsAreRefused := by
  intro s p tail hm hp
  have hcode16 := Mode.ne_code16_of_admitted hm
  have h67 : segOverride 0x67 = none := rfl
  refine ⟨fun b hseg hb hbytes => step_of_refused ?_, fun haddr hbytes => step_of_refused ?_,
    fun h32 hbytes => step_of_refused ?_⟩
  · obtain ⟨g, hg⟩ : ∃ g, segOverride b = some g := by
      obtain rfl | rfl | rfl | rfl | rfl | rfl := hb <;> exact ⟨_, rfl⟩
    rw [hbytes]
    exact decode_of_scan_refused hcode16 hp (by simp only [scanPrefixes, hg, addSeg_eq_none hseg])
  · have h32 : s.mode ≠ .mode32 := by
      rw [mode64_of_hasAddressOverride hp haddr]
      nofun
    rw [hbytes]
    exact decode_of_scan_refused hcode16 hp (by simp only [scanPrefixes, h67, if_true, if_neg h32, addAddr_eq_none haddr])
  · rw [hbytes]
    exact decode_of_scan_refused hcode16 hp (by simp only [scanPrefixes, h67, if_true, if_pos h32])

/-- Settles O46: such bytes select a row that steps 7 and 8 of R70 let pass, and step 10 finds the unused bit
(`decodeEvex_of_selectsRow`, `judge_eq_unusedBits`). -/
theorem unusedExtensionBitsAreRefused : Obligations.UnusedExtensionBitsAreRefused := by
  intro s p p0 p1 p2 opcode modrm tail vl k f why hm hp htop h0 h1 hrow htail hvl hk hreg hwhy hbytes
  have hunused : unusedBits s.mode f p0 p1 p2 = some why := by
    obtain ⟨rfl, hbits, rfl⟩ | ⟨h32, hformA, hbits, rfl⟩ := hwhy
    · exact unusedBits_eq_formA hbits _ _ _
    · rw [h32]
      exact unusedBits_eq_mode32 hformA hbits
  obtain ⟨i, hdecode, -⟩ :=
    decodeEvex_of_selectsRow ⟨top_of_mode32 hm htop, h0, h1, hrow⟩ htail p false p2
  have hbRegister : (p2b p2 == 1 && fieldMod modrm == 3) = false := by
    rw [Bool.eq_false_iff, ne_eq, Bool.and_eq_true, beq_iff_eq, beq_iff_eq]
    exact hreg
  refine step_of_unusedBits hm ?_
  rw [hbytes, decode_prefixes hm hp, hdecode, hbRegister, hm, hunused]
  exact judge_eq_unusedBits hvl hk why i

end Sys2Proof.Machine

/-! ## Addresses -/

namespace Sys2Proof.Machine

open Sys2Proof Host

/-! ### Address arithmetic as integers -/

/-- The displacement as an integer, a one-byte field times `n` (30_encoding.md R57, R60). -/
def dispInt (n : Nat) : Disp → Int
  | .noDisp => 0
  | .d8 v => v.toInt * n
  | .d32 v => v.toInt

/-- A register's contribution to an address at the address size `a`, as an integer: 0 where there is none (30_encoding.md
R57). -/
def State.gprInt (s : State) (a : Nat) : Option GReg → Int
  | none => 0
  | some r => (((s.gpr[r.toNat]'r.isLt).toNat % 2 ^ a : Nat) : Int)

theorem dispValue_eq_ofInt (n : Nat) (d : Disp) : dispValue n d = BitVec.ofInt 64 (dispInt n d) := by
  cases d with
  | noDisp => rfl
  | d8 v => rw [dispInt, BitVec.ofInt_mul, BitVec.ofInt_natCast]; rfl
  | d32 v => rfl

theorem readGpr_eq_ofInt (s : State) (a : Nat) (r : GReg) : s.readGpr a r = BitVec.ofInt 64 (s.gprInt a (some r)) :=
  (BitVec.ofInt_natCast 64 _).symm

theorem addressPart_eq_ofInt (s : State) (a : Nat) (r : Option GReg) :
    s.addressPart a r = BitVec.ofInt 64 (s.gprInt a r) := by
  cases r with
  | none => rfl
  | some r => exact readGpr_eq_ofInt s a r

/-- A left shift of a word multiplies. -/
theorem ofInt_shiftLeft (z : Int) (k : Nat) : BitVec.ofInt 64 z <<< k = BitVec.ofInt 64 (z * 2 ^ k) := by
  have hpow : BitVec.ofInt 64 (2 ^ k) = BitVec.twoPow 64 k := by
    apply BitVec.eq_of_toNat_eq
    rw [show (2 ^ k : Int) = ((2 ^ k : Nat) : Int) by norm_cast, BitVec.ofInt_natCast, BitVec.toNat_ofNat,
      BitVec.toNat_twoPow]
  rw [BitVec.ofInt_mul, hpow, BitVec.shiftLeft_eq_mul_twoPow]

/-- An address is computed on words and reduced to the address size: as on integers. -/
theorem toNat_reduced_ofInt {size : Nat} (hsize : size ≤ 64) (z : Int) :
    ((BitVec.ofNat 64 ((BitVec.ofInt 64 z).toNat % 2 ^ size)).toNat : Int) = z % 2 ^ size := by
  have hfits : (BitVec.ofInt 64 z).toNat % 2 ^ size < 2 ^ 64 :=
    lt_of_lt_of_le (Nat.mod_lt _ (by positivity)) (Nat.pow_le_pow_right (by norm_num) hsize)
  have hdvd : ((2 ^ size : Nat) : Int) ∣ ((2 ^ 64 : Nat) : Int) := Int.natCast_dvd_natCast.2 (pow_dvd_pow 2 hsize)
  rw [BitVec.toNat_ofNat, Nat.mod_eq_of_lt hfits, BitVec.toNat_ofInt, Int.natCast_emod,
    Int.toNat_of_nonneg (Int.emod_nonneg _ (by decide)), Int.emod_emod_of_dvd _ hdvd, Nat.cast_pow, Nat.cast_ofNat]

/-! ### The effective address (30_encoding.md R57, R58) -/

theorem addressSize_le (s : State) (p : Prefixes) : s.addressSize p ≤ 64 := by
  unfold State.addressSize
  split <;> decide

theorem addressSize_mode64 {s : State} (h : s.mode = .mode64) (p : Prefixes) :
    s.addressSize p = if hasAddressOverride p then 32 else 64 := by
  cases hp : hasAddressOverride p <;> simp [State.addressSize, h, hp]

theorem addressSize_mode32 {s : State} (h : s.mode = .mode32) (p : Prefixes) : s.addressSize p = 32 := by
  simp [State.addressSize, h]

section

variable (s : State) (p : Prefixes) (len n : Nat)

/-- A displacement alone: next-instruction-relative in `Mode64`, else absolute. -/
theorem effectiveAddress_disp32 (v : BitVec 32) : ((s.effectiveAddress p len n (.disp32 v)).toNat : Int) =
    ((if s.mode = .mode64 then ((s.nextPc len).toNat : Int) else 0) + v.toInt) % 2 ^ s.addressSize p := by
  rw [← toNat_reduced_ofInt (addressSize_le s p), BitVec.ofInt_add]
  have hpc : BitVec.ofInt 64 (if s.mode = .mode64 then ((s.nextPc len).toNat : Int) else 0) =
      if s.mode = .mode64 then s.nextPc len else 0 := by
    split
    · rw [BitVec.ofInt_natCast, BitVec.ofNat_toNat, BitVec.setWidth_eq]
    · rfl
  rw [hpc]
  rfl

/-- A base register and a displacement. -/
theorem effectiveAddress_base (b : GReg) (d : Disp) : ((s.effectiveAddress p len n (.base b d)).toNat : Int) =
    (s.gprInt (s.addressSize p) (some b) + dispInt n d) % 2 ^ s.addressSize p := by
  rw [← toNat_reduced_ofInt (addressSize_le s p), BitVec.ofInt_add, ← readGpr_eq_ofInt, ← dispValue_eq_ofInt]
  rfl

/-- A base, a scaled index and a displacement, each of which may be absent. -/
theorem effectiveAddress_sib (ob oi : Option GReg) (scale : BitVec 2) (d : Disp) :
    ((s.effectiveAddress p len n (.sib ob oi scale d)).toNat : Int) =
      (s.gprInt (s.addressSize p) ob + s.gprInt (s.addressSize p) oi * 2 ^ scale.toNat + dispInt n d) %
        2 ^ s.addressSize p := by
  rw [← toNat_reduced_ofInt (addressSize_le s p), BitVec.ofInt_add, BitVec.ofInt_add, ← ofInt_shiftLeft,
    ← addressPart_eq_ofInt, ← addressPart_eq_ofInt, ← dispValue_eq_ofInt]
  rfl

end

/-- Settles O8: the word arithmetic of `State.effectiveAddress` is integer arithmetic modulo the address size
(`effectiveAddress_disp32`, `effectiveAddress_base`, `effectiveAddress_sib`). -/
theorem effectiveAddressInMode64 : Obligations.EffectiveAddressInMode64 := by
  intro s p len n hmode A x disp part
  have hA : s.addressSize p = A := addressSize_mode64 hmode p
  have hdisp : disp = dispInt n := by funext d; cases d <;> rfl
  have hpart : part = s.gprInt A := by funext r; cases r <;> rfl
  have hx (b : GReg) : x b = s.gprInt A (some b) := rfl
  refine ⟨fun v => ?_, fun b d => ?_, fun ob oi scale d => ?_⟩
  · rw [effectiveAddress_disp32, if_pos hmode, nextPc_toNat, hA, State.addressWidth, if_pos hmode]
  · rw [effectiveAddress_base, hA, hdisp, hx]
  · rw [effectiveAddress_sib, hA, hdisp, hpart]

/-- A signed displacement alone, reduced to 32 bits, is its field. -/
theorem toInt_emod_eq_toNat (v : BitVec 32) : v.toInt % 2 ^ 32 = (v.toNat : Int) := by
  have hfield := congrArg BitVec.toNat (BitVec.ofInt_toInt (x := v))
  rw [BitVec.toNat_ofInt] at hfield
  rw [← hfield, Int.toNat_of_nonneg (Int.emod_nonneg _ (by decide))]
  rfl

/-- Settles O9: as in `Mode64`, with a 32-bit address size and no next pc. -/
theorem effectiveAddressInMode32 : Obligations.EffectiveAddressInMode32 := by
  intro s p len n hmode x disp part
  have hA := addressSize_mode32 hmode p
  have hdisp : disp = dispInt n := by funext d; cases d <;> rfl
  have hpart : part = s.gprInt 32 := by funext r; cases r <;> rfl
  have hx (b : GReg) : x b = s.gprInt 32 (some b) := rfl
  refine ⟨fun v => ?_, fun b d => ?_, fun ob oi scale d => ?_⟩
  · have hea := effectiveAddress_disp32 s p len n v
    rw [if_neg (by rw [hmode]; nofun), hA, Int.zero_add, toInt_emod_eq_toNat] at hea
    exact Int.ofNat_inj.1 hea
  · rw [effectiveAddress_base, hA, hdisp, hx]
  · rw [effectiveAddress_sib, hA, hdisp, hpart]

/-! ### The compressed displacement (30_encoding.md R60) -/

/-- Settles O7: a displacement of one byte times an operand size of at most 64 bytes does not overflow. -/
theorem compressedDisplacementIsScaledByN : Obligations.CompressedDisplacementIsScaledByN := by
  refine ⟨fun _ _ => rfl, fun _ => ⟨rfl, rfl⟩, fun e vl bcast v w => ⟨?_, BitVec.toInt_signExtend_of_le (by decide)⟩⟩
  have hbytes : (operandBytes e vl bcast : Int) ≤ 64 := Int.ofNat_le.2 (operandBytes_le e vl bcast)
  have hbytes0 : (0 : Int) ≤ operandBytes e vl bcast := Int.natCast_nonneg _
  have hlow : -128 * (operandBytes e vl bcast : Int) ≤ v.toInt * operandBytes e vl bcast :=
    mul_le_mul_of_nonneg_right (BitVec.le_toInt v) hbytes0
  have hhigh : v.toInt * operandBytes e vl bcast ≤ 128 * (operandBytes e vl bcast : Int) :=
    mul_le_mul_of_nonneg_right (BitVec.toInt_lt (x := v)).le hbytes0
  rw [dispValue_eq_ofInt, dispInt, BitVec.toInt_ofInt]
  generalize v.toInt * (operandBytes e vl bcast : Int) = scaled at hlow hhigh
  exact Int.bmod_eq_of_le (by omega) (by omega)

/-! ### The linear address (30_encoding.md R59) -/

theorem segBase_mode64 {s : State} (h : s.mode = .mode64) (g : Seg) :
    s.segBase g = if g ≠ .fs ∧ g ≠ .gs then 0 else s.segBases.get g := by
  simp only [State.segBase, h, true_and]

theorem segBase_mode32 {s : State} (h : s.mode = .mode32) (g : Seg) : s.segBase g = s.segBases.get g := by
  simp [State.segBase, h]

theorem effectiveSegment_of_none {p : Prefixes} (h : segmentOverride p = none) (a : Addr) :
    effectiveSegment p a = if addrBase a = some 4 ∨ addrBase a = some 5 then .ss else .ds := by
  rw [effectiveSegment, h]

/-- Settles O10: the segment, the segment base and the address width in each mode. -/
theorem linearAddressAddsTheSegmentBase : Obligations.LinearAddressAddsTheSegmentBase := by
  refine ⟨fun _ _ => ⟨rfl, rfl, rfl⟩, fun p hp => ⟨fun v => ?_, fun b d => ?_, fun b oi scale d => ?_, fun oi scale d => ?_⟩,
    fun s h => ?_, fun s g h => segBase_mode32 h g, fun s p len n a h => ?_, fun s p len n a h => ?_⟩
  · rw [effectiveSegment_of_none hp]; rfl
  · simp only [effectiveSegment_of_none hp, addrBase, Option.some.injEq]
  · simp only [effectiveSegment_of_none hp, addrBase, Option.some.injEq]
  · rw [effectiveSegment_of_none hp]; rfl
  · simp only [segBase_mode64 h]
    exact ⟨rfl, rfl, rfl, rfl, rfl, rfl⟩
  · rw [State.linearAddress, State.addressWidth, if_pos h]
  · rw [State.linearAddress, State.addressWidth, if_neg (by rw [h]; nofun)]

end Sys2Proof.Machine

/-! ## The compiler intrinsics -/

namespace Sys2Proof.Machine

open Sys2Proof Host

theorem exec_ofImm (e : ElemSize) (vl : VL) (o : ImmForm) (s : State) :
    exec (.ofImm e vl o) s = rotateImmediate e vl o s := by cases e <;> cases vl <;> rfl

theorem exec_ofVar (e : ElemSize) (vl : VL) (o : VarForm) (s : State) :
    exec (.ofVar e vl o) s = rotateVariable e vl o s := by cases e <;> cases vl <;> rfl

/-- The mask argument has a bit for every element (30_encoding.md R76). -/
theorem laneCount_le_maskBits (f : Intrinsic) : laneCount f.elem f.vl ≤ f.maskBits := by
  unfold Intrinsic.maskBits
  cases f.elem <;> cases f.vl <;> decide

/-- An intrinsic computes the elements that its instruction's writemask enables (30_encoding.md R76). -/
theorem computes_eq_enabled (f : Intrinsic) (k : KReg) (s : State) {j : Nat} (hj : j < laneCount f.elem f.vl) :
    f.computes ((s.readK k).toNat % 2 ^ f.maskBits) j = s.enabled (f.masking k) j := by
  have hbit : ((s.readK k).toNat % 2 ^ f.maskBits).testBit j = (s.readK k).getLsbD j := by
    rw [Nat.testBit_mod_two_pow, decide_eq_true (hj.trans_le (laneCount_le_maskBits f)), Bool.true_and,
      BitVec.testBit_toNat]
  unfold Intrinsic.computes Intrinsic.masking
  cases f.form with
  | plain => rfl
  | mask => exact hbit
  | maskz => exact hbit

/-- The rotated element `j` of an intrinsic's data `b`, by its count or by the immediate (30_encoding.md R76). -/
def Intrinsic.rotated (f : Intrinsic) (b cnt : Vec) (imm : BitVec 8) (j : Nat) : BitVec f.elem.bits :=
  rol (lane f.elem.bits b j) (if f.counted then (lane f.elem.bits cnt j).toNat else imm.toNat)

/-- An intrinsic's value is the new destination register of its instruction, old value `s.readZmm d`. -/
theorem value_eq_maskedResult (f : Intrinsic) (d : VReg) (k : KReg) (s : State) (b cnt : Vec) (imm : BitVec 8) :
    f.value (s.readZmm d) ((s.readK k).toNat % 2 ^ f.maskBits) b cnt imm =
      s.maskedResult f.elem f.vl (f.masking k) d (f.rotated b cnt imm) := by
  refine packLanes_congr fun j hj => ?_
  rw [computes_eq_enabled f k s hj]
  unfold Intrinsic.masking
  cases f.form <;> rfl

/-- The instruction of an intrinsic completes in a runnable state and writes the rotated elements, as its writemask says. -/
theorem exec_instr (f : Intrinsic) (d : VReg) (k : KReg) (src cnt : VReg) (imm : BitVec 8) {s : State}
    (h : Runnable s f.vl) : ∃ len, exec (f.instr d k src cnt imm) s = .next (s.complete len d
      (s.maskedResult f.elem f.vl (f.masking k) d (f.rotated (s.readZmm src) (s.readZmm cnt) imm))) := by
  have hcheck := checkEnabled_eq_next_iff_runnable.2 h
  unfold Intrinsic.instr Intrinsic.rotated
  cases f.counted with
  | true => exact ⟨_, (exec_ofVar _ _ _ _).trans (rotateVariable_eq_next.2 ⟨hcheck, s.readZmm cnt, rfl, rfl⟩)⟩
  | false => exact ⟨_, (exec_ofImm _ _ _ _).trans (rotateImmediate_eq_next.2 ⟨hcheck, s.readZmm src, rfl, rfl⟩)⟩

/-- Settles O54: the instruction completes with the rotated elements (`exec_instr`), which are the intrinsic's value
(`value_eq_maskedResult`). -/
theorem intrinsicsAreTheirInstructions : Obligations.IntrinsicsAreTheirInstructions := by
  intro f d src cnt k imm s _ hrun
  obtain ⟨len, hexec⟩ := exec_instr f d k src cnt imm hrun
  refine ⟨_, hexec, ?_, complete_onlyWrites s _ _ _⟩
  rw [readZmm_complete_same, value_eq_maskedResult]

end Sys2Proof.Machine

/-! ## Memory operands that are not read -/

namespace Sys2Proof.Machine

open Sys2Proof Host

/-! ### The refusals of a read (log entry 8) -/

/-- D11: an operand that wraps is refused before anything else is asked of it. -/
theorem memRead_eq_operandWraps {s : State} {la n : Nat} (hwraps : 2 ^ s.addressWidth < la + n) (g : Seg)
    (acc : Nat → Bool) : memRead s g la n acc = .refused .operandWraps := if_pos hwraps

/-- D4, of an operand that does not wrap. -/
theorem memRead_eq_alignmentCheck {s : State} {la n : Nat} (hspace : la + n ≤ 2 ^ s.addressWidth)
    (hcheck : s.alignCheckOn = true) (hunaligned : la % n ≠ 0) (g : Seg) (acc : Nat → Bool) :
    memRead s g la n acc = .refused .alignmentCheck := by
  have hrefused : (s.alignCheckOn && la % n != 0) = true := by rw [hcheck, Bool.true_and, bne_iff_ne]; exact hunaligned
  rw [memRead, if_neg (Nat.not_lt.2 hspace), if_pos hrefused]

/-- An operand that the alignment check lets pass. -/
theorem not_unaligned {s : State} {la n : Nat} (halign : s.alignCheckOn = true → la % n = 0) :
    ¬ (s.alignCheckOn && la % n != 0) = true := by
  rw [Bool.and_eq_true, bne_iff_ne]
  exact fun ⟨hcheck, hunaligned⟩ => hunaligned (halign hcheck)

/-- D23, of an operand that is refused for nothing else. -/
theorem memRead_eq_deviceMemory {s : State} {la n : Nat} {acc : Nat → Bool} (hspace : la + n ≤ 2 ^ s.addressWidth)
    (halign : s.alignCheckOn = true → la % n = 0) (hdevice : ∃ k < n, acc k = true ∧ s.isDevice (la + k) = true)
    (g : Seg) : memRead s g la n acc = .refused .deviceMemory := by
  obtain ⟨k, hk, hacc, hdevice⟩ := hdevice
  have hany : (accessedAddresses la n acc).any s.isDevice = true :=
    List.any_eq_true.2 ⟨la + k, mem_accessedAddresses.2 ⟨k, hk, hacc, rfl⟩, hdevice⟩
  rw [memRead, if_neg (Nat.not_lt.2 hspace), if_neg (not_unaligned halign), if_pos hany]

/-! ### The first faulting byte of a read -/

/-- One more byte of an operand comes after the others, if it is accessed. -/
theorem accessedAddresses_succ (la n : Nat) (acc : Nat → Bool) :
    accessedAddresses la (n + 1) acc = accessedAddresses la n acc ++ if acc n then [la + n] else [] := by
  unfold accessedAddresses
  cases hn : acc n <;> simp [List.range_succ, hn]

section

variable {α : Type} {fault : Nat → Option α} {la n : Nat} {acc : Nat → Bool}

/-- No accessed byte faults. -/
theorem findSome?_accessedAddresses_eq_none (h : ∀ k < n, acc k = true → fault (la + k) = none) :
    (accessedAddresses la n acc).findSome? fault = none := by
  rw [List.findSome?_eq_none_iff]
  intro a ha
  obtain ⟨k, hk, hacc, rfl⟩ := mem_accessedAddresses.1 ha
  exact h k hk hacc

/-- The accessed byte that faults before every other is the one reported. -/
theorem findSome?_accessedAddresses_eq_some {k : Nat} {f : α} (hk : k < n) (hacc : acc k = true)
    (hfault : fault (la + k) = some f) (hfirst : ∀ k' < k, acc k' = true → fault (la + k') = none) :
    (accessedAddresses la n acc).findSome? fault = some f := by
  induction n with
  | zero => cases hk
  | succ n ih =>
    rw [accessedAddresses_succ, List.findSome?_append]
    obtain hbefore | rfl := Nat.lt_succ_iff_lt_or_eq.1 hk
    · rw [ih hbefore, Option.some_or]
    · rw [findSome?_accessedAddresses_eq_none hfirst, Option.none_or, if_pos hacc, List.findSome?_singleton, hfault]

end

/-! ### The faults of a read (60_exceptions.md R110, R113) -/

section

variable {s : State} {g : Seg} {la n k : Nat} {acc : Nat → Bool} {f : Fault} (hspace : la + n ≤ 2 ^ s.addressWidth)
  (halign : s.alignCheckOn = true → la % n = 0) (hordinary : ∀ k < n, acc k = true → s.isDevice (la + k) = false)
include hspace halign hordinary

/-- The fault of an operand that is not refused is the answer of MemReadable. -/
theorem memRead_eq_fault (hfault : s.memReadable g (accessedAddresses la n acc) = some f) :
    memRead s g la n acc = .fault f := by
  have hany : ¬ (accessedAddresses la n acc).any s.isDevice = true := by
    rw [Bool.not_eq_true, List.any_eq_false]
    intro a ha
    obtain ⟨k, hk, hacc, rfl⟩ := mem_accessedAddresses.1 ha
    exact Bool.eq_false_iff.1 (hordinary k hk hacc)
  rw [memRead, if_neg (Nat.not_lt.2 hspace), if_neg (not_unaligned halign), if_neg hany, hfault]
  rfl

variable (hk : k < n) (hacc : acc k = true)
include hk hacc

/-- A segment-level fault, that of the lowest accessed byte that has one. -/
theorem memRead_eq_segmentFault (hfault : s.segmentFaultAt g (la + k) = some f)
    (hfirst : ∀ k' < k, acc k' = true → s.segmentFaultAt g (la + k') = none) : memRead s g la n acc = .fault f := by
  have hfound := findSome?_accessedAddresses_eq_some hk hacc hfault hfirst
  exact memRead_eq_fault hspace halign hordinary (by rw [State.memReadable, hfound])

/-- A page fault, where no accessed byte has a segment-level fault: that of the lowest accessed byte that has one. -/
theorem memRead_eq_pageFault (hsegment : ∀ k' < n, acc k' = true → s.segmentFaultAt g (la + k') = none)
    (hfault : s.pageFaultAt g (la + k) = some f)
    (hfirst : ∀ k' < k, acc k' = true → s.pageFaultAt g (la + k') = none) : memRead s g la n acc = .fault f := by
  have hnone := findSome?_accessedAddresses_eq_none hsegment
  have hfound := findSome?_accessedAddresses_eq_some hk hacc hfault hfirst
  exact memRead_eq_fault hspace halign hordinary (by rw [State.memReadable, hnone]; exact hfound)

end

/-! ### The instruction -/

/-- The read of a memory operand, of the bytes from its linear address on. -/
theorem readOperand_mem {i : Instr} {a : Addr} {bcast : Bool} (hrm : i.operands.rm = .mem a bcast) (s : State) :
    readOperand s i = memRead s (effectiveSegment i.operands.prefixes a)
      (operandAddress s i.operands.prefixes i.ilen i.elem i.vl a bcast) (operandBytes i.elem i.vl bcast)
      (s.accesses i.elem i.vl i.operands.mask bcast) := by
  rw [readOperand, hrm]
  rfl

section

variable {i : Instr} {s : State} (hrun : Runnable s i.vl)
include hrun

/-- An enabled instruction is refused as the read of its operand is. -/
theorem exec_eq_refused {r : Refusal} (hread : readOperand s i = .refused r) : exec i s = .refused r := by
  rw [exec_eq, checkEnabled_eq_next_iff_runnable.2 hrun, hread]
  rfl

/-- An enabled instruction faults as the read of its operand does. -/
theorem exec_eq_fault {f : Fault} (hread : readOperand s i = .fault f) : exec i s = .fault f := by
  rw [exec_eq, checkEnabled_eq_next_iff_runnable.2 hrun, hread]
  rfl

end

/-- Settles O27: the three refusals of `memRead`, in their order. -/
theorem memoryOperandRefusals : Obligations.MemoryOperandRefusals := by
  intro i s a bcast hrm hrun la n
  have hread := readOperand_mem hrm s
  exact ⟨fun hwraps => exec_eq_refused hrun (hread.trans (memRead_eq_operandWraps hwraps _ _)),
    fun hspace hcheck hunaligned =>
      exec_eq_refused hrun (hread.trans (memRead_eq_alignmentCheck hspace hcheck hunaligned _ _)),
    fun hspace halign hdevice => exec_eq_refused hrun (hread.trans (memRead_eq_deviceMemory hspace halign hdevice _))⟩

/-- Settles O28: the first faulting byte of `accessedAddresses`, of the segment-level checks before that of paging. -/
theorem memoryOperandFaults : Obligations.MemoryOperandFaults := by
  intro i s a bcast hrm hrun la n g acc hspace halign hordinary k hk hacc
  have hread := readOperand_mem hrm s
  exact ⟨fun f hfault hfirst =>
      exec_eq_fault hrun (hread.trans (memRead_eq_segmentFault hspace halign hordinary hk hacc hfault hfirst)),
    fun f hsegment hfault hfirst =>
      exec_eq_fault hrun (hread.trans (memRead_eq_pageFault hspace halign hordinary hk hacc hsegment hfault hfirst))⟩

/-! ### The canonical check (20_memory.md R39; log entries 6 and 12) -/

/-- An address in the hole of `Mode64` has the segment-level fault of its segment. -/
theorem segmentFaultAt_of_noncanonical {s : State} {a : Nat} (hmode : s.mode = .mode64)
    (hlow : 2 ^ (if s.env.fiveLevelPaging then 56 else 47) ≤ a)
    (hhigh : a < 2 ^ 64 - 2 ^ (if s.env.fiveLevelPaging then 56 else 47)) (g : Seg) :
    s.segmentFaultAt g a = some (segmentViolation g) := by
  have hnot : ¬ s.canonical a = true := by
    rw [canonical_iff]
    intro hcanonical
    obtain hbelow | habove := hcanonical hmode
    · exact Nat.not_lt.2 hlow hbelow
    · exact Nat.not_le.2 hhigh habove
  rw [State.segmentFaultAt, if_neg hnot]

theorem operandBytes_pos (e : ElemSize) (vl : VL) (bcast : Bool) : 0 < operandBytes e vl bcast := by
  cases e <;> cases vl <;> cases bcast <;> decide

/-- Settles O29: byte 0 of the operand is accessed and lies in the hole, and the operand is too short to wrap. -/
theorem nonCanonicalOperandFaults : Obligations.NonCanonicalOperandFaults := by
  intro i s a bcast hrm hrun hmode halign hoff hdevices la bits hlow hhigh
  have hspace : la + operandBytes i.elem i.vl bcast ≤ 2 ^ s.addressWidth := by
    have hwidth : s.addressWidth = 64 := if_pos hmode
    have hsize := operandBytes_le i.elem i.vl bcast
    have hbits : 47 ≤ bits := by
      change 47 ≤ if s.env.fiveLevelPaging then 56 else 47
      split <;> decide
    have hhole : 2 ^ 47 ≤ 2 ^ bits := Nat.pow_le_pow_right (by decide) hbits
    rw [hwidth]
    omega
  have hordinary (k : Nat) : s.isDevice (la + k) = false := by rw [State.isDevice, hdevices]; rfl
  have haccessed : s.accesses i.elem i.vl i.operands.mask bcast 0 = true := by
    rw [State.accesses, hoff, Bool.not_false, Bool.true_or]
  exact exec_eq_fault hrun ((readOperand_mem hrm s).trans
    (memRead_eq_segmentFault hspace (by rw [halign]; nofun) (fun k _ _ => hordinary k) (operandBytes_pos _ _ _) haccessed
      (segmentFaultAt_of_noncanonical hmode hlow hhigh _) nofun))

end Sys2Proof.Machine

/-! ## The privilege level -/

namespace Sys2Proof.Machine

open Sys2Proof Host

/-- The same state at another privilege level (10_state.md R23; 60_exceptions.md R118). -/
def State.atLevel (s : State) (c : BitVec 2) : State := { s with cpl := c }

/-- A rule's page fault is there or not whatever the privilege level, which only enters its code (60_exceptions.md R111). -/
theorem pageFault_eq_none_iff {r : ReadRule} {user : Bool} {a : Nat} :
    r.pageFault user a = none ↔ ∀ present reserved higher, r.fault ≠ .page present reserved higher := by
  unfold ReadRule.pageFault
  cases r.fault <;> simp

theorem pageFaultAt_eq_none_iff {s : State} {g : Seg} {a : Nat} : s.pageFaultAt g a = none ↔
    ∀ r ∈ s.env.readRules, r.applies g a = true → ∀ present reserved higher, r.fault ≠ .page present reserved higher := by
  simp only [State.pageFaultAt, List.findSome?_eq_none_iff, ite_eq_right_iff, pageFault_eq_none_iff]

/-- Alignment checking that is not asked for is off at every privilege level (20_memory.md R34). -/
theorem alignCheckOn_atLevel {s : State} (h : (s.am && s.ac) = false) (c : BitVec 2) :
    (s.atLevel c).alignCheckOn = false := by
  change (s.am && s.ac && c == 3) = false
  rw [h, Bool.false_and]

/-- A read that completes gives the same bytes at every privilege level. -/
theorem memRead_atLevel {s : State} (h : (s.am && s.ac) = false) (c : BitVec 2) {g : Seg} {la n : Nat} {acc : Nat → Bool}
    {v : Vec} (hread : memRead s g la n acc = .next v) : memRead (s.atLevel c) g la n acc = .next v := by
  obtain ⟨hspace, -, hdevice, hreadable, hbytes⟩ := memRead_eq_next.1 hread
  refine memRead_eq_next.2 ⟨hspace, by rw [alignCheckOn_atLevel h]; nofun, hdevice, ?_, hbytes⟩
  rw [memReadable_eq_none] at hreadable ⊢
  intro a ha
  obtain ⟨hsegment, hpage⟩ := hreadable a ha
  exact ⟨hsegment, pageFaultAt_eq_none_iff.2 (pageFaultAt_eq_none_iff (s := s).1 hpage)⟩

/-- An operand that can be read has the same bits at every privilege level. -/
theorem readOperand_atLevel {s : State} (h : (s.am && s.ac) = false) (c : BitVec 2) {i : Instr} {v : Vec}
    (hread : readOperand s i = .next v) : readOperand (s.atLevel c) i = .next v := by
  unfold readOperand at hread ⊢
  cases hrm : i.operands.rm with
  | reg r =>
    rw [hrm] at hread
    exact hread
  | mem a bcast =>
    rw [hrm] at hread
    exact memRead_atLevel h c hread

/-- Settles O22: the level enters AlignCheckOn, which is off, and the code of a page fault, which there is none of. -/
theorem privilegeLevelDoesNotInfluence : Obligations.PrivilegeLevelDoesNotInfluence := by
  intro i s t c h ht
  obtain ⟨hcheck, v, hread, rfl⟩ := exec_eq_next.1 ht
  exact exec_eq_next.2 ⟨hcheck, v, readOperand_atLevel h c hread, rfl⟩

end Sys2Proof.Machine

/-! ## Bytes that always decide the decoder -/

namespace Sys2Proof

theorem Prefixes.count_le (p : Prefixes) : p.count ≤ 2 := by cases p <;> simp [Prefixes.count]

/-- At most two legacy bytes are admitted, so that reading them ends within three bytes (30_encoding.md R66; D28). -/
theorem scanPrefixes_ne_truncated {m : Mode} {p : Prefixes} {bs : List Byte} (h : 3 ≤ p.count + bs.length) :
    scanPrefixes m p bs ≠ .truncated := by
  induction bs generalizing p with
  | nil =>
    have hcount := p.count_le
    rw [List.length_nil] at h
    omega
  | cons b bs ih =>
    rw [List.length_cons] at h
    cases hseg : segOverride b with
    | some g =>
      cases hp : p.addSeg g with
      | none => simp [scanPrefixes, hseg, hp]
      | some q =>
        have hcount := count_addSeg hp
        have hrest : scanPrefixes m q bs ≠ .truncated := ih (by omega)
        simpa [scanPrefixes, hseg, hp] using hrest
    | none =>
      by_cases h67 : b = 0x67
      · by_cases hm : m = .mode32
        · simp only [scanPrefixes, hseg, if_pos h67, if_pos hm, ne_eq, reduceCtorEq, not_false_eq_true]
        · cases hp : p.addAddr with
          | none => simp only [scanPrefixes, hseg, if_pos h67, if_neg hm, hp, ne_eq, reduceCtorEq, not_false_eq_true]
          | some q =>
            have hcount := count_addAddr hp
            have hrest : scanPrefixes m q bs ≠ .truncated := ih (by omega)
            simpa only [scanPrefixes, hseg, if_pos h67, if_neg hm, hp] using hrest
      · simp only [scanPrefixes, hseg, if_neg h67, ne_eq, reduceCtorEq, not_false_eq_true]

/-- Legacy bytes that are admitted take at most two bytes. -/
theorem length_le_of_scanPrefixes {m : Mode} {p : Prefixes} {bs rest : List Byte}
    (h : scanPrefixes m .noPrefix bs = .found p rest) : bs.length ≤ rest.length + 2 := by
  obtain ⟨pre, b, rest', rfl, rfl, hcount, -⟩ := scanPrefixes_found h
  have hle := p.count_le
  have hnone : Prefixes.noPrefix.count = 0 := rfl
  rw [List.length_append]
  omega

/-- Judging whole bytes never asks for more. -/
theorem judge_ne_truncated (bad bRegister : Bool) (ll : BitVec 2) (z : BitVec 1) (aaa : BitVec 3)
    (unused : Option DecodeRefusal) (i : VL → Masking → Instr) : judge bad bRegister ll z aaa unused i ≠ .truncated := by
  unfold judge
  split
  · split
    · nofun
    · cases unused <;> nofun
  · nofun

/-- Five bytes after 0x62 and six more for the operand and an immediate are enough (30_encoding.md R48, R53, R65). -/
theorem decodeEvex_ne_truncated {m : Mode} {bs : List Byte} (h : 11 ≤ bs.length) (p : Prefixes) (bad : Bool) :
    decodeEvex m p bad bs ≠ .truncated := by
  match bs, h with
  | p0 :: p1 :: p2 :: opcode :: modrm :: rest, h =>
    have hrest : 6 ≤ rest.length := by simpa using h
    by_cases htop : m ≠ .mode64 → p0.extractLsb' 6 2 = 3
    · by_cases hfixed : p0.extractLsb' 2 2 = 0 ∧ p1.extractLsb' 2 1 = 1
      · obtain ⟨h0, h1⟩ := hfixed
        cases hrow : rowOf (p0mm p0) (p1pp p1) opcode (fieldReg modrm) with
        | none =>
          rw [decodeEvex_of_rowOf_eq_none htop h0 h1 hrow]
          nofun
        | some f =>
          obtain ⟨i, hjudge, -⟩ := decodeEvex_of_selectsRow ⟨htop, h0, h1, hrow⟩ hrest p bad p2
          rw [hjudge]
          exact judge_ne_truncated _ _ _ _ _ _ _
      · rw [decodeEvex_of_reservedBits htop (not_and_or.1 hfixed)]
        nofun
    · obtain ⟨hm, htop⟩ := Classical.not_imp.1 htop
      rw [decodeEvex_of_bound hm htop]
      nofun

theorem length_le_skipForbidden (m : Mode) (bs : List Byte) : bs.length ≤ (skipForbidden m bs).2.length + 1 := by
  cases bs with
  | nil => exact Nat.zero_le _
  | cons b bs => cases hb : forbiddenPrefix m b <;> simp [skipForbidden, hb]

/-- Behind the legacy bytes come at most one forbidden byte and 0x62. -/
theorem decodeAfterPrefixes_ne_truncated {m : Mode} {bs : List Byte} (h : 13 ≤ bs.length) (p : Prefixes) :
    decodeAfterPrefixes m p bs ≠ .truncated := by
  have hskip := length_le_skipForbidden m bs
  unfold decodeAfterPrefixes
  split
  next hnil =>
    rw [hnil, List.length_nil] at hskip
    omega
  next b rest hcons =>
    rw [hcons, List.length_cons] at hskip
    split
    · exact decodeEvex_ne_truncated (by omega) _ _
    · nofun

/-- Settles O37: two legacy bytes, a forbidden byte, 0x62 and the eleven bytes after it. -/
theorem fifteenBytesAreEnough : Obligations.FifteenBytesAreEnough := by
  intro m bs hlen
  have hlen : 15 ≤ bs.length := hlen
  unfold decode
  split
  · nofun
  · split
    next hscan => exact absurd hscan (scanPrefixes_ne_truncated (by omega))
    · nofun
    next p rest hscan =>
      have hrest := length_le_of_scanPrefixes hscan
      exact decodeAfterPrefixes_ne_truncated (by omega) p

end Sys2Proof

/-! ## Modes, parameters and the launch state -/

namespace Sys2Proof.Machine

open Sys2Proof Host

/-! ### What the control bits fold to (10_state.md R23) -/

/-- The conditions of each mode, those before it in the order of log entry 7 excluded. -/
theorem mode_eq_iff (s : State) :
    (s.mode = .real ↔ s.pe = false) ∧
    (s.mode = .virtual8086 ↔ s.pe = true ∧ s.vm = true) ∧
    (s.mode = .mode64 ↔ s.pe = true ∧ s.vm = false ∧ s.lma = true ∧ s.csL = true) ∧
    (s.mode = .mode32 ↔ s.pe = true ∧ s.vm = false ∧ ¬ (s.lma = true ∧ s.csL = true) ∧ s.csD = true) := by
  unfold State.mode
  cases s.pe with
  | false => simp
  | true =>
    cases s.vm with
    | true => simp
    | false =>
      by_cases h64 : s.lma = true ∧ s.csL = true
      · simp [h64]
      · have hnot : (s.lma && s.csL) = false := by rwa [← Bool.not_eq_true, Bool.and_eq_true]
        cases s.csD <;> simp [h64, hnot]

/-- A field of a word is all ones exactly when each of its bits is. -/
theorem extractLsb'_beq_allOnes {w : Nat} (x : BitVec w) (start len : Nat) :
    (x.extractLsb' start len == BitVec.allOnes len) = true ↔ ∀ i < len, x.getLsbD (start + i) = true := by
  rw [beq_iff_eq, BitVec.eq_of_getLsbD_eq_iff]
  refine forall₂_congr fun i hi => ?_
  rw [BitVec.getLsbD_extractLsb', BitVec.getLsbD_allOnes, decide_eq_true hi, Bool.true_and]

/-- OS_ENABLED bit by bit (60_exceptions.md R108 (b)). -/
theorem osEnabled_iff {s : State} : s.osEnabled = true ↔ s.cr4.getLsbD 18 = true ∧ s.xcr0.getLsbD 1 = true ∧
    s.xcr0.getLsbD 2 = true ∧ s.xcr0.getLsbD 5 = true ∧ s.xcr0.getLsbD 6 = true ∧ s.xcr0.getLsbD 7 = true := by
  have hsse : (s.xcr0.extractLsb' 1 2 == 3#2) = true ↔ _ := extractLsb'_beq_allOnes s.xcr0 1 2
  have havx : (s.xcr0.extractLsb' 5 3 == 7#3) = true ↔ _ := extractLsb'_beq_allOnes s.xcr0 5 3
  simp only [State.osEnabled, State.osxsave, Bool.and_eq_true, hsse, havx, Nat.forall_lt_succ_right, Nat.not_lt_zero,
    false_imp_iff, implies_true, true_and, and_assoc]

/-- AlignCheckOn bit by bit. -/
theorem alignCheckOn_iff {s : State} :
    s.alignCheckOn = true ↔ s.am = true ∧ s.ac = true ∧ s.cpl = 3 := by
  simp only [State.alignCheckOn, Bool.and_eq_true, beq_iff_eq, and_assoc]

/-- Settles O32: each parameter by its own equivalence. -/
theorem parametersAreFoldedFromControlBits : Obligations.ParametersAreFoldedFromControlBits := by
  intro s
  obtain ⟨hreal, hvirtual, h64, h32⟩ := mode_eq_iff s
  exact ⟨hreal, hvirtual, h64, h32, osEnabled_iff, Iff.rfl, alignCheckOn_iff⟩

/-! ### Code segments with a 16-bit default size (D2) -/

/-- Settles O31: the decoder and the checks of every instruction look at the mode first. -/
theorem sixteenBitCodeIsRefused : Obligations.SixteenBitCodeIsRefused := by
  intro s hmode
  have hdecode : decode s.mode s.fetchBytes = .refused .codeSize16 := if_pos hmode
  have hcheck (vl : VL) : checkEnabled s vl = .refused (.undecodable .codeSize16) := if_pos hmode
  refine ⟨step_of_refused hdecode, fun i => ?_⟩
  rw [exec_eq, hcheck]
  rfl

/-! ### Exceptions (60_exceptions.md R107, R111) -/

/-- The lowest bit of a bit string with one flag put after it. -/
theorem getLsbD_append_flag {a : Nat} {x : BitVec a} {y : BitVec 1} {v : Bool} (h : y = BitVec.ofBool v) :
    (x ++ y).getLsbD 0 = v := by
  rw [BitVec.getLsbD_append, if_pos Nat.one_pos, h]
  cases v <;> rfl

/-- A bit of the high part of a bit string, `b` bits further up in the whole. -/
theorem getLsbD_above {a b p : Nat} {x : BitVec a} {y : BitVec b} {v : Bool} (h : x.getLsbD p = v) :
    (x ++ y).getLsbD (p + b) = v := by
  rw [BitVec.getLsbD_append, if_neg (Nat.not_lt.2 (Nat.le_add_left b p)), Nat.add_sub_cancel, h]

/-- The fields of a page-fault code, from the lowest to the highest. -/
theorem fields_pageFaultCode (present user reserved : Bool) (higher : BitVec 27) :
    (pageFaultCode present user reserved higher).getLsbD 0 = present ∧
    (pageFaultCode present user reserved higher).getLsbD 1 = false ∧
    (pageFaultCode present user reserved higher).getLsbD 2 = user ∧
    (pageFaultCode present user reserved higher).getLsbD 3 = reserved ∧
    (pageFaultCode present user reserved higher).getLsbD 4 = false ∧
    (pageFaultCode present user reserved higher).extractLsb' 5 27 = higher :=
  ⟨getLsbD_append_flag rfl, getLsbD_above (getLsbD_append_flag rfl),
    getLsbD_above (getLsbD_above (getLsbD_append_flag rfl)),
    getLsbD_above (getLsbD_above (getLsbD_above (getLsbD_append_flag rfl))),
    getLsbD_above (getLsbD_above (getLsbD_above (getLsbD_above (getLsbD_append_flag rfl)))),
    extract_above (extract_above (extract_above (extract_above (extract_above BitVec.extractLsb'_eq_self))))⟩

/-- A page fault of the environment records the address and the code of its rule, with bit 2 that of the privilege level. -/
theorem eq_pageFault_of_pageFaultAt {s : State} {g : Seg} {a : Nat} {f : Fault} (h : s.pageFaultAt g a = some f) :
    ∃ present reserved higher,
      f = .pageFault (pageFaultCode present (s.cpl == 3) reserved higher) (BitVec.ofNat 64 a) := by
  obtain ⟨r, -, hr⟩ := List.exists_of_findSome?_eq_some h
  split at hr
  · unfold ReadRule.pageFault at hr
    split at hr
    next present reserved higher _ => exact ⟨present, reserved, higher, (Option.some.inj hr).symm⟩
    · cases hr
  · cases hr

/-- Settles O30: the tables of R107 and R111, and the fields of the code. -/
theorem exceptionRecords : Obligations.ExceptionRecords := by
  refine ⟨⟨rfl, rfl, rfl, rfl, fun _ _ => rfl⟩, ⟨rfl, rfl, rfl, rfl, fun _ _ => ⟨rfl, rfl⟩⟩, fun _ _ => rfl,
    fields_pageFaultCode, ?_⟩
  intro s g a f h
  obtain ⟨present, reserved, higher, rfl⟩ := eq_pageFault_of_pageFaultAt h
  obtain ⟨-, hbit1, hbit2, -, hbit4, -⟩ := fields_pageFaultCode present (s.cpl == 3) reserved higher
  exact ⟨_, rfl, hbit1, hbit4, hbit2⟩

/-! ### The launch state (log entries 1 to 6) -/

/-- Settles O52: memory with nothing listed, and pc 0. -/
theorem resetMeetsTheStateInvariant : Obligations.ResetMeetsTheStateInvariant := ⟨reset_mem_wf, Nat.two_pow_pos _⟩

/-- Settles O53: the control words fold by evaluation; every register of a replicated file is 0. -/
theorem resetIsALaunchState : Obligations.ResetIsALaunchState := by
  refine ⟨rfl, rfl, rfl, rfl, rfl, rfl, rfl, rfl, fun r => ?_, fun r => ?_, fun r => ?_, fun _ => rfl⟩
  · exact Vector.getElem_replicate _
  · exact Vector.getElem_replicate _
  · have hzero : State.reset.gpr[r.toNat]'r.isLt = 0 := Vector.getElem_replicate _
    rw [State.readGpr, hzero]
    rfl

end Sys2Proof.Machine
